-- ==== Sys2Proof/Word.lean ====
section
/-! DEFINITION. The word types of the T9 and the keyed table that holds every family of like things.
00 R7 (bit and byte numbering), 09 R147 (a register is 32 bits and one poison bit). -/

namespace Sys2Proof

/-- A 32-bit word: an instruction word, a register's data (05 R77, 09 R147). -/
abbrev Word := BitVec 32

/-- A 64-bit value: addresses, 64-bit special registers (13 R234). -/
abbrev Dword := BitVec 64

/-- One byte of memory. -/
abbrev Byte := BitVec 8

/-- A table from numbers to values, kept in rising order of its keys. -/
abbrev Tbl (α : Type) := List (Nat × α)

/-- A byte memory: addresses strictly rising, no entry equal to 0, which is what an unlisted address reads as. -/
abbrev Mem := Tbl Byte

/-- A register's 32 data bits and its poison bit (09 R147). -/
structure PWord where
  val : Word
  poison : Bool
deriving DecidableEq, Repr, Inhabited

/-- A predicate or carry flag and its poison bit (09 R150, 17 R283). -/
structure PBool where
  val : Bool
  poison : Bool
deriving DecidableEq, Repr, Inhabited

/-- A 64-bit value with one poison bit (a register pair, a link record, XPC). -/
structure PDword where
  val : Dword
  poison : Bool
deriving DecidableEq, Repr, Inhabited

end Sys2Proof
end

