-- ==== Sys2Proof/Config.lean ====
section
/-! DEFINITION. What the spec leaves to an implementation or leaves open: free values (constants with no body,
so that nothing proved about the model depends on them), and the fixed sizes of the device (00 R2, R3). -/

namespace Sys2Proof.Config

/-- FREE VALUE: the ticks that pass at the n-th step (the upper bounds of 07 R436 are those of an unloaded device). Log 3. -/
opaque elapsed : Nat → Nat
/-- FREE VALUE: which of the enabled moves of different agents comes next. Log 3. -/
opaque pick : Nat → Nat
/-- FREE VALUE: ticks of a transit above its lower bound of 07 R436. Log 3. -/
opaque transit : Nat → Nat
/-- FREE VALUE: the draw of a core's sampling generator (27 R406). Log 3. -/
opaque sampleDraw : Nat → Nat
/-- FREE VALUE: the split of a sampled request's time over units (27 R407), which depends on the implementation's timing.
Log 3. -/
opaque sampleTimes : Nat → Nat
/-- FREE VALUE: the payload of a section, by save record and type, whose layout the spec does not give (21 R344). Log 5. -/
opaque savePayload : Nat → Nat → List (BitVec 8)
/-- FREE VALUE: the fused birth count N0 of a cluster (25 R392). Log 3. -/
opaque birthCount : Nat → Nat
/-- FREE VALUE: the lease length another device of the domain grants (07 R123). Log 3. -/
opaque remoteLease : Nat → Nat
/-- FREE VALUE: whether another device has granted a frame to a tenant of this one (29 R424). Log 3. -/
opaque remoteGrant : Nat → Nat → Nat → Bool
/-- FREE VALUE: what another device's memory answers is held in the model's memory; this is DEVID (21 R343). Log 3. -/
opaque devId : BitVec 64
/-- FREE VALUE: SM2 verification of an image's signature under the fused key (29 R428); no algorithm is given. Log 6. -/
opaque imageVerifies : List Byte → Bool
/-- FREE VALUE: the SM2 signature of a report, 64 bytes (29 R429). Log 6. -/
opaque sm2Sign : List Byte → BitVec 512
/-- FREE VALUE: the SM3 measurements of ROM, firmware and policy, 96 bytes, where an image runs (29 R429). Log 6. -/
opaque measurements : List Byte → BitVec 768
/-- FREE VALUE: SM4-GCM under a key, an IV and a header: ciphertext and tag of a frame (29 R431). Log 6. -/
opaque gcmSeal : BitVec 128 → Nat → List Byte → List Byte → BitVec 32768 × BitVec 128
/-- FREE VALUE: SM4-GCM opened: the frame, or none where the tag check fails (29 R431). Log 6. -/
opaque gcmOpen : BitVec 128 → Nat → List Byte → List Byte → Option (BitVec 32768)

/-- FREE VALUE: the word that an inline constant code reads as where the source format is K4X, whose conversions need a
quad (05 R92, 09 R174). Log 3. -/
opaque k4xInline : Nat → BitVec 32

/-- FREE VALUE: the carry word of `lnorm` where the excess does not fit 32 bits, by the whole sum (17 R291). Log 47. -/
opaque excessWord : Nat → BitVec 32

/-- FREE VALUE: a word of a fragment register that holds no byte of the quarter or of its scales (15 R263, R265). Log 3. -/
opaque fragPad : Nat → BitVec 32

/-- FREE VALUE: the code of a thread's state in a wait-for record of a limb hold (27 R404), by the condition that holds it (17 R286): the
spec does not number them. Log 3. -/
opaque threadState : Nat → BitVec 64

/-- FREE VALUE: the 64-byte header of a transfer, whose layout the spec does not give (29 R431): context, round, virtual address,
frame number and length. Log 6. -/
opaque frameHeader : Nat → Nat → Nat → Nat → Nat → BitVec 512
/-- FREE VALUE: the round that a header of R431 names. Log 6. -/
opaque headerRound : List Byte → Nat
/-- FREE VALUE: bytes 0-3 of the record of a transfer whose tag fails (29 R431), and of a function's bring-up (R427): the spec names
no cause. Log 3. -/
opaque tagRecord : BitVec 32
opaque bringUpRecord : Nat → BitVec 32
/-- FREE VALUE: the count that a cluster's ring oscillators give at the n-th comparison (25 R392). Log 3. -/
opaque ringCount : Nat → Nat
/-- FREE VALUE: the 16 bits of DRIFT where the oscillators have gained, by floor(D × 2^16), which is below 0 (25 R392, R394; 26 R396).
Log 3. -/
opaque driftGained : Int → BitVec 16

/-- FREE VALUE: which of the two base dies, the lower or the upper, carries a unit (00 R2, 12 R217). Log 91. -/
opaque upperBase : Nat → Bool

/-- FREE VALUE: whether a peer takes, at the n-th offer, a contribution that this device's engine holds for it (19 R317): what is armed
and reserved there is another device's state. Log 102. -/
opaque peerTakes : Nat → Bool

/-- FREE VALUE: the L1 bank that holds a line (25 R379, R384), whose mapping the spec does not give. Log 3. -/
opaque l1BankOf : Nat → Nat

/-- Granules of 512 bytes in a core's tile store (15 R249). -/
def granules : Nat := 4096
/-- Slots of the sillage store (27 R398). -/
def nslot : Nat := 536870848
/-- The strike quarantine and replay window in ticks (25 R381). -/
def quarantine : Nat := 64
/-- HBM bytes of the device, 768 GiB (00 R2). -/
def hbmBytes : Nat := 768 * 2 ^ 30
/-- HBM bytes homed on one die, 192 GiB (23 R356). -/
def dieBytes : Nat := 192 * 2 ^ 30

end Sys2Proof.Config
end

