-- ==== Sys2Proof/Syntax.lean ====
section
/-! DEFINITION. The syntax of the T9: the word formats of 05 R83-R88 and one constructor for every row of the opcode
table: the 188 instruction words of programs, and the 94 steps of the hardware, whose data come as arguments, or from
`Input` where the step comes from outside the device. -/

namespace Sys2Proof

/-- Engine classes (05 R79). -/
inductive Cls where
  | U | L | M | K | T | C | E | S
deriving DecidableEq, Repr, Inhabited

/-- The two classes that share opcodes 0x00 to 0x36 (05 R99). -/
inductive UL where
  | U | L
deriving DecidableEq, Repr, Inhabited

/-- F-X, the extension word (05 R84). -/
structure Ext where
  c : BitVec 8
  pn : Bool
  p : BitVec 3
  ws : BitVec 3
  imm : BitVec 17
deriving DecidableEq, Repr, Inhabited

/-- F-R, the ordinary format (05 R83); `ext` is present where X is 1. -/
structure FR where
  w : Bool
  d : BitVec 7
  a : BitVec 8
  b : BitVec 8
  ext : Option Ext
deriving DecidableEq, Repr, Inhabited

/-- F-M, loads, stores and atomics (05 R86). -/
structure FM where
  w : Bool
  d : BitVec 7
  a : BitVec 8
  width : BitVec 3
  order : BitVec 2
  scope : BitVec 3
  ext : Option Ext
deriving DecidableEq, Repr, Inhabited

/-- F-B, PC-relative transfers and their register forms (05 R87). -/
structure FB where
  n : Bool
  i : BitVec 3
  frame : BitVec 4
  off : BitVec 16
  ext : Option Ext
deriving DecidableEq, Repr, Inhabited

/-- F-E, class E (05 R88). -/
structure FE where
  tb : BitVec 6
  comp : BitVec 2
  a : BitVec 8
  b : BitVec 8
  ext : Option Ext
deriving DecidableEq, Repr, Inhabited

/-- The header of a clause (05 R78); `n` is the word count. -/
structure Header where
  n : BitVec 4
  cls : Cls
  wait : BitVec 8
  pn : Bool
  p : BitVec 3
  last : Bool
  yield : Bool
deriving DecidableEq, Repr, Inhabited

/-- What ENCDET names: word index, reason and field value (05 R107). -/
structure IllegalAt where
  widx : Nat
  reason : Nat
  fieldv : Nat
deriving DecidableEq, Repr, Inhabited

/-- What a home slice finds in its storage, or in a result of its adders (25 R386): an error that it corrects; an uncorrectable error of a
line's data, or of a line's tag, zero flag, leases or owners; a residue mismatch, or a second one, of the result words named. -/
inductive SliceError where
  | corrected
  | data (line : Nat)
  | tag (line : Nat)
  | residue
  | residueTwice (keys : List Nat)
deriving DecidableEq, Repr, Inhabited

/-- The region that a strike report names (25 R379, R384): of a core, or a home slice; an engine's reports have a row of their own. -/
inductive Region where
  | lane (slice lane : Nat)
  | twoLanes (slice lane lane' : Nat)
  | spare (slice : Nat)
  | array (part : Nat)
  | l1Bank (bank : Nat)
  /-- words of a shared-memory bank whose parity fails: team slot and word -/ | sharedBank (words : List (Nat × Nat))
  | queueBank (slot q : Nat) (entries : List Nat)
  | tileStore
  | icache
  | laneAlu (slice lane : Nat)
  | homeSlice (die slice : Nat) (e : SliceError)
  /-- a residue mismatch of a collective ALU in the run of an entry, recomputed, or with the elements that mismatch again -/
  | collAlu (die inst e : Nat) (twice : List Nat)
deriving DecidableEq, Repr, Inhabited

/-- What the patrol scrubber finds in a line (25 R386). -/
inductive ScrubResult where
  | clean | corrected | uncorrectable
deriving DecidableEq, Repr, Inhabited


/-- An access of another device of the domain (29 R424). -/
inductive RemoteOp where
  | load (pa len : Nat)
  | store (pa : Nat) (bytes : List Byte)
  | add (pa : Nat) (v : Dword)
  /-- an atomic of `width` bytes, by its place in 11 R192, with its operand and a compare value -/ | atom (op pa width c cmp : Nat)
deriving DecidableEq, Repr, Inhabited

/-- The threads a management-path debugger command names (27 R412). -/
structure DebugTarget where
  ctx : Nat
  launch : Word
  tx : Word
  ty : Word
  tz : Word
  groups : BitVec 16
  lanes : Word
deriving DecidableEq, Repr, Inhabited

/-- A collective contribution as it arrives (19 R316, R317): elements of 32 bits of data and their poison, and the causal id of its packet
(27 R403). -/
structure Contribution where
  collid : Word
  entry : Nat
  sender : Nat
  data : List Byte
  poison : List Nat
  cid : Nat := 0
deriving DecidableEq, Repr, Inhabited

/-- Device registers with no row of their own (00 R11; their maps are in the rule named). -/
inductive Reg where
  /-- 21 R341 -/ | draint
  /-- 07 R128 -/ | dskew
  /-- 07 R119: scratchpad bytes per die -/ | spsize
  /-- 29 R424: domain number -/ | devno
  /-- 29 R424: grants a frame to (device, tenant) -/ | grant (dev tenant : Nat)
  /-- 13 R235 -/ | dentry (core : Nat)
  /-- 27 R406 -/ | smplctl (core : Nat)
  /-- 27 R411 -/ | mboxst (core : Nat)
  /-- 25 R390 -/ | slicest (core slice : Nat)
  /-- 27 R405 -/ | snapst
  /-- 29 R430 -/ | migstat (ctx : Nat)
  /-- 29 R433 -/ | pwrcap
  /-- 25 R386, read only: corrected errors of a unit -/ | corrected (unit : Nat)
  /-- 29 R426, read only -/ | ready
  /-- 29 R426, read only -/ | failed
  /-- 23 R359 -/ | fqbase (ctx : Nat)
  /-- 23 R359 -/ | fqsize (ctx : Nat)
  /-- 23 R359, read only -/ | fqhead (ctx : Nat)
  /-- 23 R359, read only -/ | fqdrop (ctx : Nat)
  /-- 23 R366, a write without GO -/ | resolve (ctx : Nat)
  /-- 23 R359 -/ | root (ctx : Nat)
  /-- 23 R359 -/ | invva (ctx : Nat)
  /-- 23 R360, a write without GO -/ | invctl (ctx : Nat)
  /-- 23 R360 -/ | invstat (ctx : Nat)
  /-- 29 R420; 21 R334: firmware gives a context its tenant, for life, and its own queue -/ | ctxOwner (ctx tenant : Nat)
  /-- 21 R337: a word of the bind record of a team slot, which BIND_RECORD_WRITE writes whole -/ | bindWord (tk n : Nat)
  /-- 29 R425: entry n of a context's peer table -/ | peer (ctx n : Nat)
  /-- 29 R420 -/ | qsize (tenant q : Nat)
  /-- 29 R420, read only -/ | qhead (tenant q : Nat)
  /-- 29 R420, firmware's -/ | qctx (tenant q : Nat)
  /-- 29 R420, read only -/ | qbad (tenant q : Nat)
  /-- 29 R421 -/ | irqPending (tenant : Nat)
  /-- 29 R421 -/ | irqAddr (tenant : Nat)
  /-- 29 R421 -/ | irqData (tenant : Nat)
  -- registers whose writes have a row of their own
  /-- 29 R420 -/ | qbase (tenant q : Nat)
  /-- 29 R420 -/ | qtail (tenant q : Nat)
  /-- 29 R421 -/ | irqMask (tenant : Nat)
  /-- 23 R359 -/ | fqtail (ctx : Nat)
  /-- 25 R394 -/ | agectl (cluster : Nat)
  /-- 27 R405 -/ | snapdt
  /-- 07 R123 -/ | leasectl
deriving DecidableEq, Repr, Inhabited

/-- What a host access does (29 R417-R419): host memory or HBM of this device, a tenant's window, the management window's
registers, or the sillage store (27 R398). -/
inductive HostOp where
  | load (host : Bool) (pa len : Nat)
  | store (host : Bool) (pa : Nat) (bytes : List Byte)
  | readWindow (tenant off : Nat)
  | writeWindow (tenant off : Nat) (v : Dword)
  | readReg (r : Reg)
  | readTrace (off len : Nat)
deriving DecidableEq, Repr, Inhabited

/-- One constructor for every row of the opcode table. -/
inductive Instr where
  /-- R80: At a clause boundary a candidate's clause is fetched whole, decoded, made eligible, granted, predicated, hazard-checked and issued. -/
  | clauseIssue (tk g lead : Nat)
  /-- R227: A held thread whose regang deadline passes becomes Ready alone. -/
  | regangDeadline (tk g t : Nat)
  /-- R43: The team watchdog fires after a barrier holds A > 0 for a full period, records the wait and timeout, and parks every group. -/
  | teamBarrierTimeout (tk n : Nat)
  /-- R201: The team watchdog fires on a thread Waiting a full period in tb.wait, cc.wait, a queue or a rendezvous, records it and parks the team. -/
  | waitTimeout (tk g t : Nat)
  /-- R45: A group whose threads are all Exited, whose slots are clear and whose accesses are acknowledged retires and frees its slots, registers and spill stack. -/
  | groupRetire (tk g : Nat)
  /-- R381: An externally visible effect of a core leaves the core once it is 64 ticks old. -/
  | strikeQuarantineExpiry (id : Nat)
  /-- R126: A home slice performs an arriving store or engine write in coherence order, revokes ownership, marks the page dirty and sends an acknowledgement with GWCT. -/
  | homeSliceWrite (id : Nat)
  /-- R137: A home slice performs an atomic's read and write as one step and returns the old value and acknowledgement. -/
  | homeSliceAtomic (id : Nat)
  /-- R123: A home slice answers a load or fill request, granting a lease LE = DT + LL. -/
  | homeSliceRead (id : Nat)
  /-- R127: A revocation reaching a core's L1 clears the owned flag of the words it names and is confirmed to the slice. -/
  | ownershipRevocation (id core : Nat)
  /-- R126: An acknowledgement reaching a core retires the store or atomic from its record, raises GWCTMAX and decrements its wait slot, or is delivered late to a save record. -/
  | acknowledgement (id : Nat)
  /-- R124: A fill or load value reaching the core is written to waiting destinations and installed in the L1 unless a self-invalidation has dropped it. -/
  | fillArrival (id : Nat)
  /-- R123: An L1 copy stops being usable when DT reaches its lease end. -/
  | leaseExpiry (core line : Nat)
  /-- R95: A slot-assigning instruction reaching its completion point decrements its wait slot and ends its registers' pending state. -/
  | slotCompletion (op : Nat)
  /-- R136: Once the group's stores are acknowledged and DT exceeds GWCTMAX, the vfence hold on the group's candidates ends. -/
  | vfenceRelease (tk g : Nat)
  /-- R121: An evicted line is written to memory, a zero-flagged line as 128 zero bytes. -/
  | lineEviction (line : Nat)
  /-- R305: The launcher takes a card from a ring or card.enq, reads and checks it, derives its edges and makes it Queued, Waiting, Ready or Refused. -/
  | cardEnqueue (tenant q : Nat) (ring : Bool)
  /-- R307: The launcher reads a graph object and places its nodes in the queue in node order, or refuses it whole. -/
  | graphEnqueue (tenant q : Nat) (ring : Bool)
  /-- R306: A Ready card becomes Running when its engine or team slots are bound. -/
  | cardStart (id : Nat)
  /-- R303: A card's completion record is written, its counter incremented and its successors' counts decremented or cancelled. -/
  | cardComplete (id : Nat)
  /-- R339: When DT reaches a team's start and admission holds, dispatch names, places and invalidates for the team and makes its groups Ready from launch or a save record. -/
  | teamStart (tk : Nat) (save : Option Nat)
  /-- R341: When a draining team meets the conditions of its drain, the slot moves to Saving. -/
  | drainComplete (tk : Nat)
  /-- R341: When DRAINT passes with the drain incomplete, in-flight work is retracted or left to complete and the slot moves to Saving. -/
  | drainTimeout (tk : Nat)
  /-- R340: Once the save record is written and acknowledged the slot becomes Free and reports the record and unstarted teams. -/
  | saveRecordWritten (tk : Nat)
  /-- R351: A late acknowledgement or value missing 2^24 ticks after SAVEDT is declared lost, recorded, and the record's restore refused. -/
  | lateAccessLost (save id : Nat)
  /-- R310: The engine reads a slice's 64-byte descriptor from team shared memory after the copy instruction issues, refusing it on poison. -/
  | copyDescriptorRead (cid g : Nat)
  /-- R314: When all writes of a team-copy slice are acknowledged the slice arrives on its barrier with its byte count. -/
  | copySliceComplete (cid g : Nat)
  /-- R314: An engine entry that waited for room in q1, q3 or q5 is pushed when room appears. -/
  | engineQueuePush (tk q : Nat)
  /-- R316: A fired entry whose contributions are all held combines them, writes and sends the result, and adds one to the counter. -/
  | collectiveEntryRun (inst e : Nat)
  /-- R319: An entry's watchdog expires, recording a timeout naming the first late participant and pushing a q3 event. -/
  | collectiveTimeout (inst e : Nat)
  /-- R325: A peer that does not answer a counter query within 2^20 ticks counts as below V. -/
  | counterQueryTimeout (rearm peer : Nat)
  /-- R268: In the tick after the last listed group deposits, the latch checks the deposits and the joint matrix step starts. -/
  | mmaStepStart (tk g seq : Nat)
  /-- R275: A contribution reaching the accumulator's slice merges into the tile and its predictions, or waits in order, and is acknowledged. -/
  | commitMerge (id : Nat)
  /-- R276: An acc.close reaching the slice opens the tile if needed and waits for E contributions. -/
  | closeArrival (id : Nat)
  /-- R361: When its accesses are performed or held the invalidation completes, setting DONE and SEQ, raising the interrupt and resolving migrating parks. -/
  | invalidationDone (ctx : Nat)
  /-- R388: At the slice's next clause boundary the spare takes over a failed lane's registers, index and threads. -/
  | laneTakeover (core slice : Nat)
  /-- R392: Every 2^20 ticks a cluster compares its oscillator count with N0 and computes its steps and FMAX. -/
  | ageingCheck (cluster n : Nat)
  /-- R392: A lowered FMAX takes effect at a clause boundary of every core in the cluster, stopping issue for 1,200 ticks. -/
  | clockStep (cluster : Nat)
  /-- R398: A trace record arriving at the sillage store is written into its slot and WINDEX advances. -/
  | traceRecordStore (source : Nat)
  /-- R424: A remote access with no answer within 2^20 ticks meets cause 18. -/
  | remoteTimeout (id : Nat)
  /-- R155: Integer add, wrapping or saturating. -/
  | iadd (k : UL) (f : FR)
  /-- R155: Integer subtract, wrapping or saturating. -/
  | isub (k : UL) (f : FR)
  /-- R155: Integer multiply, low word or saturated. -/
  | imul (k : UL) (f : FR)
  /-- R155: High word of an integer product. -/
  | imulhi (k : UL) (f : FR)
  /-- R155: Integer multiply-add with a third source. -/
  | imad (k : UL) (f : FR)
  /-- R156: One step of unsigned restoring division on a register pair. -/
  | idivs (k : UL) (f : FR)
  /-- R155: Smaller integer operand. -/
  | imin (k : UL) (f : FR)
  /-- R155: Larger integer operand. -/
  | imax (k : UL) (f : FR)
  /-- R155: Integer absolute value. -/
  | iabs (k : UL) (f : FR)
  /-- R155: Integer negation. -/
  | ineg (k : UL) (f : FR)
  /-- R157: Logical shift left. -/
  | shl (k : UL) (f : FR)
  /-- R157: Logical shift right. -/
  | shr (k : UL) (f : FR)
  /-- R157: Arithmetic shift right. -/
  | sar (k : UL) (f : FR)
  /-- R157: Rotate left. -/
  | rotl (k : UL) (f : FR)
  /-- R157: Rotate right. -/
  | rotr (k : UL) (f : FR)
  /-- R157: Double-word shift left or right. -/
  | dsh (k : UL) (f : FR)
  /-- R158: Population count. -/
  | popc (k : UL) (f : FR)
  /-- R158: Count leading zeros. -/
  | clz (k : UL) (f : FR)
  /-- R158: Count trailing zeros. -/
  | ctz (k : UL) (f : FR)
  /-- R158: Bit reverse. -/
  | brev (k : UL) (f : FR)
  /-- R158: Bit-field extract, signed or unsigned. -/
  | bfx (k : UL) (f : FR)
  /-- R158: Bit-field insert. -/
  | bfi (k : UL) (f : FR)
  /-- R159: Carry-less multiply, low word. -/
  | clmul (k : UL) (f : FR)
  /-- R159: Carry-less multiply, high word. -/
  | clmulh (k : UL) (f : FR)
  /-- R160: Bitwise AND. -/
  | and (k : UL) (f : FR)
  /-- R160: Bitwise OR. -/
  | or (k : UL) (f : FR)
  /-- R160: Bitwise XOR. -/
  | xor (k : UL) (f : FR)
  /-- R160: Bitwise complement. -/
  | not (k : UL) (f : FR)
  /-- R160: Three-input logic by an 8-bit table. -/
  | lgc3 (k : UL) (f : FR)
  /-- R160: Move, with an optional 16-bit constant added low or high. -/
  | mov (k : UL) (f : FR)
  /-- R169: Select between two sources by a predicate. -/
  | sel (k : UL) (f : FR)
  /-- R167: Integer compare into a predicate. -/
  | icmp (k : UL) (f : FR)
  /-- R161: Floating add. -/
  | fadd (k : UL) (f : FR)
  /-- R161: Floating subtract. -/
  | fsub (k : UL) (f : FR)
  /-- R161: Floating multiply. -/
  | fmul (k : UL) (f : FR)
  /-- R161: Fused multiply-add with one rounding. -/
  | fma (k : UL) (f : FR)
  /-- R162: Floating minimum. -/
  | fmin (k : UL) (f : FR)
  /-- R162: Floating maximum. -/
  | fmax (k : UL) (f : FR)
  /-- R163: Clear the sign bit. -/
  | fabs (k : UL) (f : FR)
  /-- R163: Invert the sign bit. -/
  | fneg (k : UL) (f : FR)
  /-- R163: Copy the sign of b onto a. -/
  | fcopysign (k : UL) (f : FR)
  /-- R164: Correctly rounded reciprocal. -/
  | frcp (k : UL) (f : FR)
  /-- R164: Correctly rounded reciprocal square root. -/
  | frsq (k : UL) (f : FR)
  /-- R164: Correctly rounded square root. -/
  | fsqrt (k : UL) (f : FR)
  /-- R164: Correctly rounded power of two. -/
  | fexp2 (k : UL) (f : FR)
  /-- R164: Correctly rounded base-2 logarithm. -/
  | flog2 (k : UL) (f : FR)
  /-- R165: Round to an integer value in the same format. -/
  | fround (k : UL) (f : FR)
  /-- R166: Classify a floating value into a one-hot mask. -/
  | fclass (k : UL) (f : FR)
  /-- R168: Floating compare into a predicate. -/
  | fcmp (k : UL) (f : FR)
  /-- R172: Convert one value between formats. -/
  | cvt (k : UL) (f : FR)
  /-- R173: Convert and pack two values, or a K4X quad, into an element pair. -/
  | cvtpk (k : UL) (f : FR)
  /-- R174: Convert one element of a packed source. -/
  | cvtsp (k : UL) (f : FR)
  /-- R170: Three-input predicate logic by table. -/
  | plop (k : UL) (f : FR)
  /-- R171: Pack p0 to p7 into a register. -/
  | ppack (k : UL) (f : FR)
  /-- R171: Set p0 to p6 from a register. -/
  | punpk (k : UL) (f : FR)
  /-- R176: Read a value from a named lane of the segment. -/
  | xfrom (f : FR)
  /-- R176: Read from n lanes lower, wrapping in the segment. -/
  | xlow (f : FR)
  /-- R176: Read from n lanes higher, wrapping in the segment. -/
  | xhigh (f : FR)
  /-- R176: Read from the lane t xor n. -/
  | xpair (f : FR)
  /-- R177: OR of a predicate over the segment's participants. -/
  | vany (f : FR)
  /-- R177: AND of a predicate over the segment's participants. -/
  | vall (f : FR)
  /-- R177: Ballot mask of a predicate over the segment. -/
  | vballot (f : FR)
  /-- R178: Prefix sum over participants of the segment. -/
  | scanadd (f : FR)
  /-- R178: Prefix XOR over participants of the segment. -/
  | scanxor (f : FR)
  /-- R178: Prefix maximum over participants of the segment. -/
  | scanmax (f : FR)
  /-- R178: Prefix minimum over participants of the segment. -/
  | scanmin (f : FR)
  /-- R178: Sum reduction over the segment. -/
  | redadd (f : FR)
  /-- R178: Maximum reduction over the segment. -/
  | redmax (f : FR)
  /-- R178: Minimum reduction over the segment. -/
  | redmin (f : FR)
  /-- R178: XOR reduction over the segment. -/
  | redxor (f : FR)
  /-- R179: Seed the thread's stochastic rounding state. -/
  | srseed (f : FR)
  /-- R190: Load from global memory. -/
  | ldG (f : FM)
  /-- R190: Load from team shared memory. -/
  | ldSh (f : FM)
  /-- R190: Load from the scratchpad. -/
  | ldSp (f : FM)
  /-- R191: Store to global memory. -/
  | stG (f : FM)
  /-- R191: Store to team shared memory. -/
  | stSh (f : FM)
  /-- R191: Store to the scratchpad. -/
  | stSp (f : FM)
  /-- R194: Global atomic add. -/
  | atomGAdd (f : FM)
  /-- R194: Global atomic signed minimum. -/
  | atomGMin (f : FM)
  /-- R194: Global atomic signed maximum. -/
  | atomGMax (f : FM)
  /-- R194: Global atomic AND. -/
  | atomGAnd (f : FM)
  /-- R194: Global atomic OR. -/
  | atomGOr (f : FM)
  /-- R194: Global atomic XOR. -/
  | atomGXor (f : FM)
  /-- R194: Global atomic exchange. -/
  | atomGXchg (f : FM)
  /-- R194: Global atomic compare-and-swap. -/
  | atomGCas (f : FM)
  /-- R193: Global atomic FP32 add. -/
  | atomGFadd (f : FM)
  /-- R194: Global atomic FP32 minimum. -/
  | atomGFmin (f : FM)
  /-- R194: Global atomic FP32 maximum. -/
  | atomGFmax (f : FM)
  /-- R194: Shared-memory atomic add. -/
  | atomShAdd (f : FM)
  /-- R194: Shared-memory atomic signed minimum. -/
  | atomShMin (f : FM)
  /-- R194: Shared-memory atomic signed maximum. -/
  | atomShMax (f : FM)
  /-- R194: Shared-memory atomic AND. -/
  | atomShAnd (f : FM)
  /-- R194: Shared-memory atomic OR. -/
  | atomShOr (f : FM)
  /-- R194: Shared-memory atomic XOR. -/
  | atomShXor (f : FM)
  /-- R194: Shared-memory atomic exchange. -/
  | atomShXchg (f : FM)
  /-- R194: Shared-memory atomic compare-and-swap. -/
  | atomShCas (f : FM)
  /-- R193: Shared-memory atomic FP32 add. -/
  | atomShFadd (f : FM)
  /-- R194: Shared-memory atomic FP32 minimum. -/
  | atomShFmin (f : FM)
  /-- R194: Shared-memory atomic FP32 maximum. -/
  | atomShFmax (f : FM)
  /-- R194: Scratchpad atomic add. -/
  | atomSpAdd (f : FM)
  /-- R194: Scratchpad atomic signed minimum. -/
  | atomSpMin (f : FM)
  /-- R194: Scratchpad atomic signed maximum. -/
  | atomSpMax (f : FM)
  /-- R194: Scratchpad atomic AND. -/
  | atomSpAnd (f : FM)
  /-- R194: Scratchpad atomic OR. -/
  | atomSpOr (f : FM)
  /-- R194: Scratchpad atomic XOR. -/
  | atomSpXor (f : FM)
  /-- R194: Scratchpad atomic exchange. -/
  | atomSpXchg (f : FM)
  /-- R194: Scratchpad atomic compare-and-swap. -/
  | atomSpCas (f : FM)
  /-- R193: Scratchpad atomic FP32 add. -/
  | atomSpFadd (f : FM)
  /-- R194: Scratchpad atomic FP32 minimum. -/
  | atomSpFmin (f : FM)
  /-- R194: Scratchpad atomic FP32 maximum. -/
  | atomSpFmax (f : FM)
  /-- R198: Order the thread's accesses by acquire, release or both at a scope. -/
  | fence (f : FR)
  /-- R199: Hold the group until its stores are acknowledged and DT passes GWCTMAX. -/
  | vfence (f : FR)
  /-- R203: Set a team barrier's participant roles and recompute E. -/
  | barSet (f : FR)
  /-- R203: Arrive at a team barrier without waiting. -/
  | barArr (f : FR)
  /-- R203: Arrive at a team barrier and wait for its release. -/
  | barSync (f : FR)
  /-- R207: Add to a transaction barrier's pending count. -/
  | tbExpect (f : FR)
  /-- R207: Subtract from a transaction barrier's pending count, completing the phase at zero. -/
  | tbArrive (f : FR)
  /-- R207: Wait for a transaction barrier's phase to differ from a parity. -/
  | tbWait (f : FR)
  /-- R210: Wait until a 64-bit completion counter reaches a target, then acquire. -/
  | ccWait (f : FR)
  /-- R212: Push one entry into a team queue. -/
  | qpush (f : FR)
  /-- R220: PC-relative conditional branch. -/
  | bra (f : FB)
  /-- R221: Branch on the lowest participating thread's condition. -/
  | braLead (f : FB)
  /-- R222: PC-relative call pushing a link record and shifting the register window. -/
  | call (f : FB)
  /-- R222: Call to an address held in a register pair. -/
  | callr (f : FB)
  /-- R223: Return through the link record, restoring the window. -/
  | ret (f : FR)
  /-- R220: Branch to an address held in a register pair. -/
  | brar (f : FB)
  /-- R225: The participating threads exit. -/
  | exit (f : FR)
  /-- R231: Take the software trap after the clause. -/
  | trap (f : FR)
  /-- R232: Return from a handler to XPC, leaving handler mode. -/
  | tret (f : FR)
  /-- R226: Hold the threads at the next boundary until their peers join or a deadline passes. -/
  | regang (f : FR)
  /-- R250: Reserve granules of the tile store under a handle, waiting or failing. -/
  | tsRsv (f : FR)
  /-- R251: Release a tile-store range. -/
  | tsRel (f : FR)
  /-- R254: Set a range's record, marking every row and column stale. -/
  | tsRec (f : FR)
  /-- R262: Write 32 bits into a tile-store range. -/
  | tsWr (f : FR)
  /-- R262: Read 32 bits from a tile-store range. -/
  | tsRd (f : FR)
  /-- R261: Re-sum a range's stale checksums. -/
  | tsSync (f : FR)
  /-- R261: Check every row and column of a range, correcting or poisoning. -/
  | tsCk (f : FR)
  /-- R261: Read a stored checksum component. -/
  | tsCks (f : FR)
  /-- R267: Set the group's gang register and reset its sequence number. -/
  | gangSet (f : FR)
  /-- R271: Deposit for and perform one matrix step accumulating into staging. -/
  | mma (f : FR)
  /-- R271: Matrix step that first clears the staging accumulator. -/
  | mmaZ (f : FR)
  /-- R275: Send the staging accumulator to a home-slice tile in arrival mode. -/
  | commit (f : FR)
  /-- R275: Send the staging accumulator with a split index in ordered mode. -/
  | commitOrd (f : FR)
  /-- R276: Close an accumulator tile after E contributions. -/
  | accClose (f : FR)
  /-- R265: Load and verify a B quarter into registers and a fragment sidecar. -/
  | fragLd (f : FR)
  /-- R266: Make a fragment sidecar fresh from the registers. -/
  | fragCks (f : FR)
  /-- R295: Bind the group's lanes as limbs of integers. -/
  | lbind (f : FR)
  /-- R295: Unbind the group's limb binding. -/
  | lunbind (f : FR)
  /-- R288: Long-integer add setting CF. -/
  | ladd (f : FR)
  /-- R288: Long-integer add with carry in. -/
  | laddc (f : FR)
  /-- R288: Long-integer subtract setting borrow. -/
  | lsub (f : FR)
  /-- R288: Long-integer subtract with borrow in. -/
  | lsubb (f : FR)
  /-- R288: Long-integer negation. -/
  | lneg (f : FR)
  /-- R288: Long-integer compare into a predicate. -/
  | lcmp (f : FR)
  /-- R289: Long-integer shift left by bits. -/
  | lshl (f : FR)
  /-- R289: Long-integer shift right by bits. -/
  | lshr (f : FR)
  /-- R289: Long-integer shift left by limbs with fill. -/
  | lshlw (f : FR)
  /-- R289: Long-integer shift right by limbs with fill. -/
  | lshrw (f : FR)
  /-- R290: One schoolbook multiplication row into d and CW. -/
  | lmac (f : FR)
  /-- R291: Normalise a redundant limb form, excess into CW. -/
  | lnorm (f : FR)
  /-- R296: Load a long integer limb by limb from global memory. -/
  | lld (f : FR)
  /-- R296: Store a long integer limb by limb to global memory. -/
  | lst (f : FR)
  /-- R292: Write the mask of integers whose CF is set, or poisoned. -/
  | lovf (f : FR)
  /-- R324: Contribute the group's slice of a team copy. -/
  | copy (f : FE)
  /-- R324: Contribute a team-copy slice with a tile-store side. -/
  | copyts (f : FE)
  /-- R325: Arm an instance of a collective tile table. -/
  | collStart (f : FE)
  /-- R325: Re-arm a collective after checking every peer's counter against V. -/
  | collRearm (f : FE)
  /-- R326: Fire one entry of an active collective instance. -/
  | collReady (f : FE)
  /-- R327: Enqueue a job card on a launcher queue. -/
  | cardEnq (f : FE)
  /-- R327: Enqueue a task graph on a launcher queue. -/
  | graphLaunch (f : FE)
  /-- R328: Reset a transaction barrier's PEND, regions and phase. -/
  | tbInit (f : FE)
  /-- R328: Write a completion counter as an engine write. -/
  | cntInit (f : FE)
  /-- R328: Set one traffic-class weight of the tenant. -/
  | wgtSet (f : FE)
  /-- R234: Read a special register. -/
  | rdsr (f : FR)
  /-- R236: Write a special register. -/
  | wrsr (f : FR)
  /-- R231: Take the debug break after the clause. -/
  | brk (f : FR)
  /-- R240: Step selected Halted threads by one clause issue. -/
  | sstep (f : FR)
  /-- R242: Arm a watchpoint. -/
  | wptArm (f : FR)
  /-- R242: Disarm a watchpoint. -/
  | wptClr (f : FR)
  /-- R241: Arm a PC comparator with address and filter. -/
  | pcmpSet (f : FR)
  /-- R241: Disarm a PC comparator. -/
  | pcmpClr (f : FR)
  /-- R244: Prefetch a byte range to the L1 or home slices. -/
  | prefetch (f : FR)
  /-- R244: Drop non-owned L1 words of a byte range. -/
  | cinv (f : FR)
  /-- R244: Write back dirty lines of a byte range to memory. -/
  | cwb (f : FR)
  /-- R245: Set the sample tag, optionally forcing the next access to be sampled. -/
  | smpl (f : FR)
  /-- R243: Write a record to the core's debug mailbox. -/
  | mboxWr (f : FR)
  /-- R238: Halt selected threads of the team. -/
  | halt (f : FR)
  /-- R238: Resume selected Halted threads or cancel pending halts. -/
  | resume (f : FR)
  /-- R126: A former owner's confirmation that it has applied a revocation reaches the home slice, which then lets the held acknowledgement of the store leave. -/
  | revocationConfirmation (id core : Nat)
  /-- R123: A write to LEASECTL sets the lease lengths, clamped to 64 to 4,096 ticks, for later grants. Input: value. -/
  | leasectlWrite
  /-- R420: A QTAIL write rings a launcher queue's doorbell, or is ignored and counted in QBAD if it would overfill the ring. Input: tenant, q, value. -/
  | qtailDoorbell
  /-- R420: A write to QBASE sets the ring base and clears QBAD. Input: tenant, q, value. -/
  | qbaseWrite
  /-- R337: The management core writes a bind record into a slot, which reads the card and arms the slot or refuses the record. Input: tk, words. -/
  | bindRecordWrite
  /-- R340: Command 1 written to a slot pre-empts it: an Armed slot becomes Free and a Running team starts Draining. Input: tk, addr. -/
  | preemptCommand
  /-- R340: Command 2 written to a slot kills its team, killing and recording every thread and writing the completion record with the team failed. Input: tk. -/
  | killCommand
  /-- R317: An arriving contribution is held in staging for its entry, or is discarded as a collective-protocol error. Input: msg. -/
  | collectiveContribution
  /-- R319: The runtime aborts a collective instance through the management core, failing its remaining entries. Input: id. -/
  | collectiveAbort
  /-- R325: A peer's collective engine answers a rearm counter query with its counter value for the COLLID. Input: value, peer. -/
  | counterQuery
  /-- R281: The management core's tile-store injection command XORs a mask into one byte of a range and records an event. Input: tk, id, addr, mask. -/
  | tsInjection
  /-- R361: INVCTL GO without MOVE starts an invalidation of a page range or the whole context. Input: ctx, value. -/
  | invalidate
  /-- R363: INVCTL GO with MOVE starts a move invalidation that also revokes leases, drops L1 copies and clears ownership. Input: ctx, value. -/
  | moveInvalidate
  /-- R366: RESOLVE with ACT 0 replays the held accesses of a park, or resumes a watchdog-parked team. Input: ctx, id. -/
  | resolveReplay
  /-- R366: RESOLVE with ACT 1 gives each held access cause 24 poison, or kills a watchdog-parked team. Input: ctx, id. -/
  | resolveFail
  /-- R366: RESOLVE with ACT 2 kills every thread of the team with cause 51. Input: ctx, id. -/
  | resolveKill
  /-- R372: A write to FQTAIL makes room in the fault queue, releasing waiting park and fail records. Input: ctx, value. -/
  | fqtailWrite
  /-- R380: A strike report naming a core region stops issue, discards results younger than r − 64 and replays the core. Input: core, region. -/
  | strikeReport
  /-- R385: A strike report naming an engine discards its work younger than 64 ticks and performs it again. Input: die, flag (its collective engine). -/
  | engineStrikeReport
  /-- R388: The management core declares a working lane failed. Input: core, slice, lane. -/
  | laneFailCommand
  /-- R386: The patrol scrubber reads a line, writes back corrections and poisons uncorrectable lines. Input: line, scrub, flag (a line of the trace memory). -/
  | scrubPass
  /-- R386: A flit failing its CRC on a link is retransmitted by link-level retry. Input: link. -/
  | flitRetry
  /-- R394: A write to AGECTL raises STEPS, lowers it only with UNLOCK, or clears RETREQ. Input: cluster, value. -/
  | agectlWrite
  /-- R391: A home slice hands over its lines to slice s xor 16 after writing back, revoking and clearing owners. Input: die, slice. -/
  | sliceReplacement
  /-- R391: An HBM row is copied to a spare row and repaired post-package while its accesses wait. Input: id, addr. -/
  | hbmRowRepair
  /-- R391: A link swaps a failing lane for a spare lane with retry, keeping flit order. Input: link, lane. -/
  | linkLaneSwap
  /-- R391: Traffic of a failed link or port moves to the remaining routes, resending unacknowledged flits in order. Input: link. -/
  | linkFailover
  /-- R433: A sensed coolant inlet above 45 °C sets every cluster to 900 MHz and records an event. Input: count. -/
  | thermalTrip
  /-- R10: At power-on the management core loads DT from IEEE 1588 time or from the sillage store. Input: time. -/
  | powerOn
  /-- R427: Device reset clears READY and FAILED, keeps DT, and the recorder increments RESETS and writes a reset marker. -/
  | deviceReset
  /-- R427: A function finishing its self-test sets its READY bit, or its FAILED bit. Input: id, flag. -/
  | selfTestComplete
  /-- R428: The boot ROM verifies the firmware image's SM2 signature and version and runs it or stays in recovery. Input: bytes, value. -/
  | firmwareBoot
  /-- R429: Firmware returns an SM2-signed report with the nonce, DEVID, version and measurements. Input: bytes. -/
  | attestationRequest
  /-- R405: A write to SNAPDT accepts a snapshot DT and forwards it across the domain, or is refused. Input: value. -/
  | snapshotRequest
  /-- R405: At DT S every source writes snapshot wait records for its current waits. -/
  | snapshotTake
  /-- R405: When every source has reported the management core writes the snapshot-end record. -/
  | snapshotEnd
  /-- R411: A pop command copies out and removes the oldest debug mailbox record, or returns KIND 0. Input: core. -/
  | mboxPop
  /-- R412: A management-path halt command halts the named threads, or is kept pending for a saved context. Input: target. -/
  | debugHalt
  /-- R412: A management-path resume command resumes the named threads, or is kept pending for a saved context. Input: target. -/
  | debugResume
  /-- R412: A management-path step command steps the named threads, or is kept pending for a saved context. Input: target. -/
  | debugStep
  /-- R422: A write to IRQMASK masks or unmasks pending bits, sending the message of an unmasked pending bit at once. Input: tenant, value. -/
  | irqmaskWrite
  /-- R418: A host access over Slamel Link is performed at its home slice or register window in the host thread's order. Input: hostOp. -/
  | hostAccess
  /-- R424: A fabric access reaching a device is admitted only to frames granted to its sender and tenant, else it meets cause 11. Input: peer, tenant, remoteOp. -/
  | remoteAccess
  /-- R395: A 64-bit fetch-and-clear of a dirty-bitmap word at its home slice returns and clears its bits. Input: addr. -/
  | dirtyBitmapFetchClear
  /-- R430: Firmware starts a context's migration job, whose round 0 sends every frame. Input: ctx, peer, id (job number), q (key slot). -/
  | migrationStart
  /-- R430: A later round sends each frame found dirty by fetch-and-clear. Input: ctx. -/
  | migrationRound
  /-- R432: The final stop pre-empts the context and runs a last round and sends save records, or is refused with BUSY. Input: ctx, words (where the save record of each slot of the context goes). -/
  | migrationStop
  /-- R431: A receiver checks a transfer's SM4-GCM tag and writes the frame or discards it and asks again. Input: id (key slot), count (job number), value (transfer count), addr (frame), header, bytes. -/
  | migrationTransfer
  /-- R431: Firmware loads a 128-bit SM4 key into a write-only key slot. Input: id, key. -/
  | migrationKeyLoad
  /-- R11: A write to a register with no row of its own sets RW fields, clears W1C bits and ignores RO fields. Input: reg, value. -/
  | registerWrite
  /-- R325: A peer's answer to a rearm counter query reaches the rearming engine, which arms with final value V + NENT or refuses with peer busy once every answer is in. Input: id, peer, value, flag. -/
  | counterQueryAnswer
  /-- R405: A device receives a snapshot DT S forwarded over the Falkan Fabric management channel and takes it in its own DT as a pending snapshot. Input: value. -/
  | snapshotForwardReceived
  /-- R433: Firmware changes cluster clocks in 25 MHz steps to hold module power at PWRCAP, with the timing effect of R392 and R393. Input: cluster, count. -/
  | pwrcapClockChange
  /-- R391: An HBM channel fails, firmware reports its frames lost, and once software has moved the pages off, the frames are withdrawn. Input: addr, count. -/
  | hbmChannelLoss
deriving DecidableEq, Repr, Inhabited

end Sys2Proof
end

