-- ==== Sys2Proof/Machine/Legal.lean ====
section
/-! DEFINITION. Which field values an instruction admits (05 R82-R106 and the entries of 09, 11, 13, 15, 17, 19):
the illegal pattern of one instruction, by word, reason code and offending field, and the registers it names. -/

namespace Sys2Proof.Machine

/-- An illegal pattern inside one instruction: `off` 0 for the instruction word and 1 for its extension word, the reason
code of 05 R106 and the value of the offending field (05 R107). -/
structure Bad where
  off : Nat
  reason : Nat
  field : Nat
deriving DecidableEq, Repr, Inhabited

/-- 05 R91: the source codes a class admits. -/
def classAdmits (k : Cls) (c : Nat) : Bool :=
  if c < 64 then k != .U
  else if c < 132 then true
  else if c < 140 then k == .U || k == .E
  else if c == 140 || c == 142 then true
  else if c < 144 then k != .U
  else 192 ≤ c

/-- What a source field of an instruction may hold. -/
inductive SRule where
  /-- the field is unused and 0 (05 R89) -/ | unused
  /-- any source of the class -/ | src
  /-- a register pair of 09 R148, with an inline constant where `cst` -/ | pair (cst : Bool)
  /-- s, `zr`, `gidx` or an inline constant, and a queue code in class E -/ | scalar
  /-- an even v or s pair, with `zr` where `z` -/ | pairSV (z : Bool)
  /-- an even s pair, with `zr` where `z` -/ | pairS (z : Bool)
  /-- a v or s register that starts a group of four -/ | quadSV
  /-- a pair (`.b32`) or quad (`.b64`) of v or s registers: the operand of `cas` (11 R192) -/ | cas (n : Nat)
  /-- a v register, codes 0-63 -/ | vreg
  /-- a range handle in bits 3:0 (05 R89) -/ | handle
  /-- order and scope of a fence (11 R198) -/ | fence
  /-- the number of a special register (13 R234) -/ | srno
  /-- a shared or scratchpad base: v, s or `zr` (11 R184) -/ | base32
  /-- code 140 exactly: the third source of an F-B extension word (05 R87) -/ | zr140
  /-- `zr` alone: the descriptor of a slice under `.empty` (19 R322) -/ | onlyZr
deriving DecidableEq, Repr, Inhabited

/-- The special registers of 13 R235 by number: width in bits, or 0 where the number is reserved. -/
def srWidth (n : Nat) : Nat :=
  if n ∈ [0, 2, 16, 18, 22, 24, 28, 32] then 64
  else if n ∈ [4, 5, 6, 7, 8, 9, 10, 11, 12, 13, 14, 15, 20, 21, 26, 27, 30, 31] then 32
  else 0

/-- 13 R235: the registers `wrsr` may write. -/
def srWritable (n : Nat) : Bool := n ∈ [4, 14, 16, 26]

/-- Is the register code an even v or s code? -/
def evenReg (c : Nat) : Bool := c < 128 && c % 2 == 0

/-- The reason an operand code fails its field's rule, if it does. -/
def SRule.fails (r : SRule) (k : Cls) (c : Nat) : Option Nat :=
  let need (ok : Bool) : Option Nat :=
    if !classAdmits k c then some 5 else if ok then none else some 7
  match r with
  | .unused => if c == 0 then none else some 7
  | .src => need true
  | .pair cst => need (evenReg c || c == 140 || (cst && 192 ≤ c))
  | .scalar => need ((64 ≤ c && c < 128) || (k == .E && 132 ≤ c && c < 140) || c == 140 || c == 142 || 192 ≤ c)
  | .pairSV z => need (evenReg c || (z && c == 140))
  | .pairS z => need ((64 ≤ c && evenReg c) || (z && c == 140))
  | .quadSV => need (c < 128)
  | .cas n => need (c < 128 && c % n == 0)
  | .vreg => need (c < 64)
  | .handle => if c < 16 then none else some 7
  | .fence => if c < 32 && 8 ≤ c && c % 8 ≠ 7 then none else some 7
  | .srno => if c < 128 && srWidth c ≠ 0 then none else some 7
  | .base32 => need (c < 128 || c == 140)
  | .zr140 => need (c == 140)
  | .onlyZr => need (c == 140)

/-- What the destination field of an F-R word may hold. -/
inductive DRule where
  /-- unused: 0 -/ | none
  /-- a register under the row of 05 R90 -/ | reg
  /-- a register pair -/ | pair
  /-- a v register (class C results, fragments) -/ | vreg
  /-- a predicate in bits 18:16 -/ | pred
  /-- a number below `n` -/ | below (n : Nat)
  /-- a queue that `qpush` may name (11 R212) -/ | queue
  /-- the number of a special register that `wrsr` writes -/ | srno
deriving DecidableEq, Repr, Inhabited

def DRule.fails (r : DRule) (k : Cls) (d : Nat) : Option Nat :=
  match r with
  | .none => if d == 0 then Option.none else some 7
  | .reg => if k == .U && d < 64 then some 5 else Option.none
  | .pair => if k == .U && d < 64 then some 5 else if d % 2 == 0 then Option.none else some 7
  | .vreg => if d < 64 then Option.none else some 7
  | .pred => if d < 8 then Option.none else some 7
  | .below n => if d < n then Option.none else some 7
  | .queue => if d < 8 && d ≠ 1 && d ≠ 3 && d ≠ 5 then Option.none else some 7
  | .srno => if srWritable d then Option.none else some 7

/-- The shape of an F-R instruction: its fields' rules, the modifier bits it admits, whether it admits W and whether it
assigns a wait slot. -/
structure Shape where
  cls : Cls
  d : DRule := .reg
  wOk : Bool := true
  a : SRule := .src
  b : SRule := .src
  c : SRule := .unused
  mask : Nat := 0
  immOk : Bool := true
  slot : Bool := false
deriving DecidableEq, Repr, Inhabited

/-- Modifier fields (05 R85). -/
def mRound (m : Nat) : Nat := m / 2 ^ 14 % 8
def mSat (m : Nat) : Bool := m / 2 ^ 13 % 2 == 1
def mDst (m : Nat) : Nat := m / 2 ^ 9 % 16
def mSrc (m : Nat) : Nat := m / 2 ^ 5 % 16
/-- 09 R154: one of FP32, FP16, BF16 in both format fields, and a rounding code of 03 R61. -/
def fpOk (m : Nat) : Bool := mRound m ≤ 4 && mDst m == mSrc m && mDst m ≤ 2
/-- 09 R172. -/
def cvtOk (m : Nat) : Bool :=
  mRound m ≤ 4 && mDst m ≤ 11 && mDst m ≠ 6 && mSrc m ≤ 11 && mSrc m ≠ 6
/-- 09 R173: destination formats with their positions, and source formats. -/
def cvtpkOk (m : Nat) : Bool :=
  let k := m % 4
  mRound m ≤ 4 && mSrc m ∈ [0, 1, 2, 8, 9] &&
    ((mDst m ∈ [1, 2] && k == 0) || (mDst m ∈ [3, 4, 7, 6] && k ≤ 1) || mDst m == 5)
/-- 03 R49: element width in bits by format code. -/
def fmtWidth (f : Nat) : Nat :=
  match f with
  | 0 => 32 | 1 => 16 | 2 => 16 | 3 => 8 | 4 => 8 | 5 => 4 | 6 => 4 | 7 => 8 | 8 => 32 | 9 => 32 | 10 => 8 | 11 => 64
  | _ => 32
/-- 09 R174. -/
def cvtspOk (m : Nat) : Bool :=
  mRound m ≤ 4 && mSrc m ∈ [1, 2, 3, 4, 5, 6, 7] && mDst m ∈ [0, 1, 2, 8, 9] && m % 8 < 32 / fmtWidth (mSrc m)
/-- 15 R270: Ks of a matrix format, 0 where it is none. -/
def fmtKs (f : Nat) : Nat :=
  match f with
  | 0 => 8 | 1 => 32 | 2 => 32 | 3 => 64 | 4 => 64 | 7 => 64 | 5 => 128 | 6 => 128
  | _ => 0
/-- 15 R254: format, SC and BLK that a record admits. -/
def scaleOk (fmt : Nat) (sc : Bool) (blk : Nat) : Bool :=
  fmt < 10 && (if sc then fmt ∈ [3, 4, 5, 6] else !(fmt ∈ [5, 6]) && blk == 0)
/-- 15 R266: Ks by code. -/
def ksOf (c : Nat) : Nat := match c with | 0 => 8 | 1 => 32 | 2 => 64 | _ => 128
/-- 15 R266: the modifier of `frag.cks`. -/
def fragCksOk (m : Nat) : Bool :=
  let fmt := m / 32 % 16
  scaleOk fmt (m / 16 % 2 == 1) (m / 4 % 4) && ksOf (m / 512 % 4) ≤ fmtKs fmt
/-- 15 R263: registers of a quarter and its scales. -/
def fragRegs (fmt ks : Nat) (sc : Bool) : Nat := (ks * fmtWidth fmt + 63) / 64 + sc.toNat
/-- 15 R266: the registers of a `frag.cks`. -/
def fragCksCount (m : Nat) : Nat := fragRegs (m / 32 % 16) (ksOf (m / 512 % 4)) (m / 16 % 2 == 1)
/-- Sources that are read per thread in class C (17 R285). -/
def perThread (c : Nat) : Bool := c < 64 || (128 ≤ c && c < 132) || c == 141 || c == 143

/-- The modifier bits of an instruction, 0 without an extension word (05 R84). -/
def immOf (e : Option Ext) : Nat := match e with | some x => x.imm.toNat | none => 0

/-- The shape of every F-R instruction; none for the other formats and for the steps of the hardware. -/
def shapeOf (i : Instr) : Option (Shape × FR) :=
  let ul (k : UL) : Cls := match k with | .U => .U | .L => .L
  let u2 (k : UL) (f : FR) (mask : Nat) := some ({ cls := ul k, mask := mask : Shape }, f)
  let u1 (k : UL) (f : FR) (mask : Nat) := some ({ cls := ul k, b := .unused, mask := mask : Shape }, f)
  let u3 (k : UL) (f : FR) (mask : Nat) := some ({ cls := ul k, c := .src, mask := mask : Shape }, f)
  let fp2 (k : UL) (f : FR) (mask : Nat) := some ({ cls := ul k, mask := mask, immOk := fpOk (immOf f.ext) : Shape }, f)
  let fp1 (k : UL) (f : FR) (mask : Nat) :=
    some ({ cls := ul k, b := .unused, mask := mask, immOk := fpOk (immOf f.ext) : Shape }, f)
  let ln (f : FR) (mask : Nat) :=
    some ({ cls := .L, c := .src, mask := mask, immOk := immOf f.ext % 8 ≤ 5 : Shape }, f)
  let scan (f : FR) (mask : Nat) :=
    some ({ cls := .L, b := .unused, mask := mask, immOk := immOf f.ext % 8 ≤ 5 : Shape }, f)
  let t (f : FR) (d : DRule) (w : Bool) (a b : SRule) (slot : Bool) (mask : Nat := 0) (ok : Bool := true) :=
    some ({ cls := .T, d := d, wOk := w, a := a, b := b, slot := slot, mask := mask, immOk := ok : Shape }, f)
  let c2 (f : FR) (b : SRule) (mask : Nat) (ok : Bool := true) :=
    some ({ cls := .C, d := .vreg, b := b, mask := mask, immOk := ok : Shape }, f)
  let cz (f : FR) (mask : Nat) (ok : Bool) :=
    some ({ cls := .C, d := .none, wOk := false, a := .unused, b := .unused, mask := mask, immOk := ok : Shape }, f)
  let m (f : FR) (d : DRule) (a b : SRule) (mask : Nat := 0) (ok : Bool := true) :=
    some ({ cls := .M, d := d, wOk := false, a := a, b := b, mask := mask, immOk := ok : Shape }, f)
  let k0 (f : FR) (a : SRule) := some ({ cls := .K, d := .none, wOk := false, a := a, b := .unused : Shape }, f)
  let sy (f : FR) (d : DRule) (a b : SRule) (mask : Nat := 0) (slot : Bool := false) :=
    some ({ cls := .S, d := d, wOk := false, a := a, b := b, mask := mask, slot := slot : Shape }, f)
  match i with
  | .iadd k f | .isub k f | .imul k f => u2 k f 0x2010
  | .imad k f => u3 k f 0x2010
  | .imulhi k f | .imin k f | .imax k f | .bfx k f => u2 k f 0x10
  | .iabs k f | .ineg k f => u1 k f 0x2000
  | .idivs k f => some ({ cls := ul k, d := .pair, a := .pair false : Shape }, f)
  | .shl k f | .shr k f | .sar k f | .rotl k f | .rotr k f | .clmul k f | .clmulh k f | .and k f | .or k f
  | .xor k f => u2 k f 0
  | .dsh k f => u3 k f 1
  | .popc k f | .clz k f | .ctz k f | .brev k f | .not k f => u1 k f 0
  | .bfi k f => u3 k f 0
  | .lgc3 k f => u3 k f 0xFF
  | .mov k f => u1 k f 0x1FFFF
  | .sel k f => u2 k f 0xF
  | .icmp k f =>
    some ({ cls := ul k, d := .pred, wOk := false, mask := 0x17, immOk := immOf f.ext % 8 ≤ 5 : Shape }, f)
  | .fadd k f | .fsub k f | .fmul k f => fp2 k f 0x1FFE0
  | .fma k f => some ({ cls := ul k, c := .src, mask := 0x1FFE0, immOk := fpOk (immOf f.ext) : Shape }, f)
  | .fmin k f | .fmax k f | .fcopysign k f => fp2 k f 0x1FE0
  | .fabs k f | .fneg k f | .fclass k f => fp1 k f 0x1FE0
  | .frcp k f | .frsq k f | .fsqrt k f | .flog2 k f | .fround k f => fp1 k f 0x1DFE0
  | .fexp2 k f => fp1 k f 0x1FFE0
  | .fcmp k f =>
    some ({ cls := ul k, d := .pred, wOk := false, mask := 0x1FE7, immOk := fpOk (immOf f.ext) : Shape }, f)
  | .cvt k f =>
    let im := immOf f.ext
    some ({ cls := ul k, d := if mDst im == 11 then .pair else .reg, a := if mSrc im == 11 then .pair true else .src,
            b := .unused, mask := 0x1FFE0, immOk := cvtOk im : Shape }, f)
  | .cvtpk k f =>
    let im := immOf f.ext
    let q := mDst im == 6
    some ({ cls := ul k, a := if q then .quadSV else .src, b := if q then .unused else .src, mask := 0x1FFE3,
            immOk := cvtpkOk im : Shape }, f)
  | .cvtsp k f => some ({ cls := ul k, b := .unused, mask := 0x1FFE7, immOk := cvtspOk (immOf f.ext) : Shape }, f)
  | .plop k f =>
    some ({ cls := ul k, d := .pred, wOk := false, a := .unused, b := .unused, mask := 0x1FFFF : Shape }, f)
  | .ppack k f => some ({ cls := ul k, a := .unused, b := .unused : Shape }, f)
  | .punpk k f => some ({ cls := ul k, d := .none, wOk := false, b := .unused : Shape }, f)
  | .xfrom f | .xlow f | .xhigh f | .xpair f => ln f 7
  | .vany f | .vall f =>
    some ({ cls := .L, d := .pred, wOk := false, a := .unused, b := .unused, mask := 0x7F,
            immOk := immOf f.ext / 16 % 8 ≤ 5 : Shape }, f)
  | .vballot f =>
    some ({ cls := .L, a := .unused, b := .unused, mask := 0x7F, immOk := immOf f.ext / 16 % 8 ≤ 5 : Shape }, f)
  | .scanadd f | .scanxor f => scan f 0xF
  | .scanmax f | .scanmin f => scan f 0x1F
  | .redadd f | .redxor f => scan f 7
  | .redmax f | .redmin f => scan f 0x17
  | .srseed f => some ({ cls := .L, d := .none, wOk := false, b := .unused : Shape }, f)
  | .fence f => m f .none .unused .fence
  | .vfence f => m f .none .unused .unused
  | .barSet f => m f (.below 16) .scalar .unused
  | .barArr f | .barSync f => m f (.below 16) .unused .unused
  | .tbExpect f | .tbArrive f => m f (.below 64) .scalar .unused
  | .tbWait f => m f (.below 64) .src .unused
  | .ccWait f => m f .none (.pairSV false) (.pairSV true) 7 (immOf f.ext % 8 ≠ 7)
  | .qpush f => m f .queue .scalar .unused
  | .ret f | .exit f | .tret f => k0 f .unused
  | .trap f | .regang f => k0 f .scalar
  | .tsRsv f => t f (.below 16) false .scalar .unused false
  | .tsRel f => t f (.below 16) false .unused .unused false
  | .tsRec f => t f (.below 16) false (.pairS false) .unused false
  | .tsWr f => t f (.below 16) false .src .src false
  | .tsRd f => t f .reg true .src .handle true
  | .tsSync f | .tsCk f => t f (.below 16) false .unused .unused true
  | .tsCks f => t f .reg true .src .handle false
  | .gangSet f => t f .none false .scalar .unused false
  | .mma f | .mmaZ f => t f .vreg false .scalar .handle false
  | .commit f => t f .none false (.pairS false) .unused true
  | .commitOrd f => t f .none false (.pairS false) .scalar true
  | .accClose f => t f .none false (.pairS false) .scalar true 0x1F (immOf f.ext % 32 ≤ 24)
  | .fragLd f => t f .vreg false .scalar .handle true 1
  | .fragCks f => t f .vreg false .unused .unused false 0x7FD (fragCksOk (immOf f.ext))
  | .lbind f => cz f 7 (1 ≤ immOf f.ext % 8 && immOf f.ext % 8 ≤ 5)
  | .lunbind f => cz f 0 true
  | .ladd f | .laddc f | .lsub f | .lsubb f | .lnorm f | .lshl f => c2 f .src 0
  | .lneg f => c2 f .unused 0
  | .lcmp f =>
    some ({ cls := .C, d := .pred, wOk := false, mask := 0x17, immOk := immOf f.ext % 8 ≤ 5 : Shape }, f)
  | .lshr f => c2 f .src 1
  | .lshlw f =>
    let im := immOf f.ext
    c2 f (if im % 4 == 1 then .src else .unused) 0x3F3 (im % 4 ≤ 1 && im / 16 % 64 ≤ 32)
  | .lshrw f =>
    let im := immOf f.ext
    c2 f (if im % 4 == 1 then .src else .unused) 0x3F3 (im / 16 % 64 ≤ 32)
  | .lmac f => c2 f .src 0x3F (immOf f.ext % 32 == 0 || perThread f.b.toNat)
  | .lld f =>
    let im := immOf f.ext
    some ({ cls := .C, d := .vreg, a := .pairSV true, b := .unused, mask := 0x1FFFF,
            immOk := im / 8 % 4 ≤ 1 && im % 8 ≠ 7, slot := true : Shape }, f)
  | .lst f =>
    let im := immOf f.ext
    some ({ cls := .C, d := .none, wOk := false, a := .pairSV true, b := .vreg, mask := 0x1FFFF,
            immOk := im / 8 % 2 == 0 && im % 8 ≠ 7, slot := true : Shape }, f)
  | .lovf f => some ({ cls := .C, a := .unused, b := .unused, mask := 1 : Shape }, f)
  | .rdsr f =>
    some ({ cls := .S, d := if srWidth f.a.toNat == 64 then .pair else .reg, a := .srno, b := .unused : Shape }, f)
  | .wrsr f =>
    some ({ cls := .S, d := .srno, wOk := false, a := if f.d.toNat == 16 then .pair false else .src,
            b := .unused : Shape }, f)
  | .brk f | .mboxWr f => sy f .none .scalar .unused
  | .sstep f | .halt f | .resume f => sy f .none .scalar .scalar
  | .wptArm f => sy f (.below 4) (.pairS true) .scalar
  | .wptClr f => sy f (.below 4) .unused .unused
  | .pcmpSet f => sy f (.below 8) (.pairS true) .scalar
  | .pcmpClr f => sy f (.below 8) .unused .unused
  | .prefetch f => sy f .none (.pairSV true) .src 1 true
  | .cinv f | .cwb f => sy f .none (.pairSV true) .src 0 true
  | .smpl f => sy f .none .src .unused 1
  | _ => none

/-- Collect a failure of a field. -/
def failAt (off field : Nat) (r : Option Nat) : List Bad :=
  match r with | some n => [{ off := off, reason := n, field := field % 256 }] | none => []

/-- A failed condition as a reason 7. -/
def need7 (off field : Nat) (ok : Bool) : List Bad := failAt off field (if ok then none else some 7)

/-- The extension word's own fields: predicate (reason 3), third source, wait slot, modifier bits (05 R84, R89). -/
def extBads (k : Cls) (c : SRule) (slot : Bool) (mask : Nat) (e : Option Ext) : List Bad :=
  match e with
  | none => []
  | some x =>
    failAt 1 (x.p.toNat + 8) (if x.pn && x.p == 7 then some 3 else none) ++
    failAt 1 x.c.toNat (c.fails k x.c.toNat) ++
    need7 1 x.ws.toNat (slot || x.ws == 0) ++
    need7 1 x.imm.toNat (x.imm.toNat &&& (0x1FFFF - mask) == 0)

/-- The word that holds the modifier: the extension word if there is one. -/
def immOff (e : Option Ext) : Nat := if e.isSome then 1 else 0

/-- The illegal patterns of an F-R instruction; a modifier that fails 05 R89 is named by its low 8 bits (log 109). -/
def frBads (h : Shape) (f : FR) : List Bad :=
  failAt 0 f.d.toNat (h.d.fails h.cls f.d.toNat) ++ need7 0 1 (h.wOk || !f.w) ++
  failAt 0 f.a.toNat (h.a.fails h.cls f.a.toNat) ++ failAt 0 f.b.toNat (h.b.fails h.cls f.b.toNat) ++
  extBads h.cls h.c h.slot h.mask f.ext ++ need7 (immOff f.ext) (immOf f.ext) h.immOk

/-- Memory spaces of class M (07 R116). -/
inductive Space where
  | g | sh | sp
deriving DecidableEq, Repr, Inhabited

/-- 07 R116: the scopes a space admits. -/
def scopeOk (s : Space) (scope : Nat) : Bool :=
  match s with | .g => scope ≤ 6 | .sh => scope ≤ 1 | .sp => scope ≤ 3

/-- Kinds of F-M instructions. -/
inductive MKind where
  | load | store | atom | cas | fatom
deriving DecidableEq, Repr, Inhabited

/-- The kind and space of an F-M instruction. -/
def fmOf (i : Instr) : Option (MKind × Space × FM) :=
  match i with
  | .ldG f => some (.load, .g, f) | .ldSh f => some (.load, .sh, f) | .ldSp f => some (.load, .sp, f)
  | .stG f => some (.store, .g, f) | .stSh f => some (.store, .sh, f) | .stSp f => some (.store, .sp, f)
  | .atomGAdd f | .atomGMin f | .atomGMax f | .atomGAnd f | .atomGOr f | .atomGXor f
  | .atomGXchg f => some (.atom, .g, f)
  | .atomGCas f => some (.cas, .g, f)
  | .atomGFadd f | .atomGFmin f | .atomGFmax f => some (.fatom, .g, f)
  | .atomShAdd f | .atomShMin f | .atomShMax f | .atomShAnd f | .atomShOr f | .atomShXor f
  | .atomShXchg f => some (.atom, .sh, f)
  | .atomShCas f => some (.cas, .sh, f)
  | .atomShFadd f | .atomShFmin f | .atomShFmax f => some (.fatom, .sh, f)
  | .atomSpAdd f | .atomSpMin f | .atomSpMax f | .atomSpAnd f | .atomSpOr f | .atomSpXor f
  | .atomSpXchg f => some (.atom, .sp, f)
  | .atomSpCas f => some (.cas, .sp, f)
  | .atomSpFadd f | .atomSpFmin f | .atomSpFmax f => some (.fatom, .sp, f)
  | _ => none

/-- 11 R188: the orders a kind admits (0 rlx, 1 acq, 2 rel, 3 ar). -/
def orderOk (k : MKind) (o : Nat) : Bool :=
  match k with | .load => o ≤ 1 | .store => o == 0 || o == 2 | _ => true

/-- 11 R189, R192: the widths a kind admits (0 b8 to 4 b128). -/
def widthOk (k : MKind) (w : Nat) : Bool :=
  match k with | .load | .store => w ≤ 4 | .atom | .cas => w == 2 || w == 3 | .fatom => w == 2

/-- 11 R185: registers of a data group. -/
def groupRegs (w : Nat) : Nat := if w == 4 then 4 else if w == 3 then 2 else 1

/-- 11 R187: once per candidate, by destination (loads, atomics) or by base and data (stores). -/
def oncePer (k : MKind) (f : FM) : Bool :=
  if k == .store then (64 ≤ f.a.toNat) && 64 ≤ f.d.toNat else 64 ≤ f.d.toNat

/-- The operand field of an atomic; code 140 without an extension word (05 R84). -/
def atomOperand (f : FM) : Nat := match f.ext with | some x => x.c.toNat | none => 140

/-- The rule of an atomic's operand (11 R187, R192). -/
def atomRule (k : MKind) (f : FM) : SRule :=
  match k with
  | .load | .store => .unused
  | .cas => .cas (if f.width == 3 then 4 else 2)
  | _ => if f.width == 3 then .pair false else if oncePer k f then .scalar else .src

/-- The illegal patterns of an F-M instruction. A load to s registers that reach beyond s63 is left to the register-range trap of 11 R216,
whatever its code's multiple (log 107). -/
def fmBads (k : MKind) (spc : Space) (f : FM) : List Bad :=
  let base := if spc == .g then SRule.pairSV true else .base32
  let c := atomRule k f
  need7 0 1 (!f.w || k != .store) ++
  need7 0 f.d.toNat (f.d.toNat % groupRegs f.width.toNat == 0 || (k == .load && 128 < f.d.toNat + groupRegs f.width.toNat)) ++
  failAt 0 f.d.toNat (if k != .store && 64 ≤ f.d.toNat && !((64 ≤ f.a.toNat && f.a.toNat < 128) || f.a == 140) then some 5 else none) ++
  failAt 0 f.a.toNat (base.fails .M f.a.toNat) ++
  need7 0 f.width.toNat (widthOk k f.width.toNat) ++
  need7 0 f.order.toNat (orderOk k f.order.toNat) ++
  need7 0 f.scope.toNat (scopeOk spc f.scope.toNat) ++
  extBads .M c true 0x1FFFF f.ext ++
  (if k == .cas && f.ext.isNone then need7 0 140 false else []) ++
  (if oncePer k f && k != .load && k != .store then
     failAt (immOff f.ext) (atomOperand f) (if atomOperand f < 64 then some 7 else none) else [])

/-- The F-B instructions: is it a register form, and may it carry a frame code. -/
def fbOf (i : Instr) : Option (Bool × Bool × FB) :=
  match i with
  | .bra f => some (false, false, f) | .braLead f => some (false, false, f)
  | .call f => some (false, true, f) | .callr f => some (true, true, f) | .brar f => some (true, false, f)
  | _ => none

/-- The illegal patterns of an F-B instruction (05 R87, 13 R220, R247). -/
def fbBads (reg frame : Bool) (f : FB) : List Bad :=
  failAt 0 (f.i.toNat + 8) (if f.n && f.i == 7 then some 3 else none) ++
  need7 0 f.frame.toNat (f.frame.toNat ≤ 8 && (frame || f.frame == 0)) ++
  (if reg then
     need7 0 1 f.ext.isNone ++ need7 0 f.off.toNat (f.off.toNat % 256 == 0) ++
     failAt 0 (f.off.toNat / 256) ((SRule.pairSV false).fails .K (f.off.toNat / 256))
   else
     extBads .K .zr140 false 0x1FFFF f.ext ++
     (match f.ext with | some x => need7 1 (x.p.toNat + 8 * x.pn.toNat) (x.p == 7 && !x.pn) | none => []))

/-- The F-E instructions: source rules, modifier mask, slot, and how the tb and completion fields are used
(0 neither, 1 a transaction barrier only, 2 both). -/
def feOf (i : Instr) : Option (SRule × SRule × Nat × Bool × Nat × FE) :=
  match i with
  | .copy f => some (if immOf f.ext % 2 == 1 then .onlyZr else .scalar, .unused, 1, true, 2, f)
  | .copyts f => some (if immOf f.ext % 2 == 1 then .onlyZr else .scalar, .handle, 1, true, 2, f)
  | .collStart f => some (.pairS false, .unused, 0, true, 0, f)
  | .collRearm f => some (.pairS false, .pairS false, 0, true, 0, f)
  | .collReady f => some (.scalar, .pairS false, 0, true, 0, f)
  | .cardEnq f => some (.scalar, .scalar, 0xFF, true, 0, f)
  | .graphLaunch f => some (.scalar, .scalar, 0xFF, true, 0, f)
  | .tbInit f => some (.scalar, .unused, 0, true, 1, f)
  | .cntInit f => some (.pairS false, .pairS false, 0, true, 0, f)
  | .wgtSet f => some (.scalar, .scalar, 0, false, 0, f)
  | _ => none

/-- The illegal patterns of an F-E instruction (05 R88, 19 R322). -/
def feBads (a b : SRule) (mask : Nat) (slot : Bool) (use : Nat) (f : FE) : List Bad :=
  need7 0 f.comp.toNat (f.comp.toNat ≤ 2 && (use == 2 || f.comp == 0)) ++
  need7 0 f.tb.toNat (f.tb == 0 || use == 1 || (use == 2 && f.comp == 1)) ++
  failAt 0 f.a.toNat (a.fails .E f.a.toNat) ++ failAt 0 f.b.toNat (b.fails .E f.b.toNat) ++
  extBads .E .unused slot mask f.ext

/-- Every illegal pattern inside an instruction (reasons 3, 5 and 7; the others belong to the clause). -/
def bads (i : Instr) : List Bad :=
  match shapeOf i, fmOf i, fbOf i, feOf i with
  | some (h, f), _, _, _ => frBads h f
  | _, some (k, spc, f), _, _ => fmBads k spc f
  | _, _, some (r, fr, f), _ => fbBads r fr f
  | _, _, _, some (a, b, m, sl, u, f) => feBads a b m sl u f
  | none, none, none, none => []

/-- 05 R106: of several patterns the lowest word, then the lowest reason (then the first field of the entry). -/
def worst (l : List Bad) : Option Bad :=
  l.foldl (fun acc b => match acc with
    | none => some b
    | some c => if b.off < c.off || (b.off == c.off && b.reason < c.reason) then some b else some c) none

/-- The illegal pattern that ENCDET names for this instruction, if any. -/
def illegal (i : Instr) : Option Bad := worst (bads i)

/-- The extension word of an instruction. -/
def extOf (i : Instr) : Option Ext :=
  match shapeOf i, fmOf i, fbOf i, feOf i with
  | some (_, f), _, _, _ => f.ext
  | _, some (_, _, f), _, _ => f.ext
  | _, _, some (_, _, f), _ => f.ext
  | _, _, _, some (_, _, _, _, _, f) => f.ext
  | none, none, none, none => none

/-- Does the instruction assign a wait slot (05 R96)? -/
def assignsSlot (i : Instr) : Bool :=
  match shapeOf i, fmOf i, feOf i with
  | some (h, _), _, _ => h.slot
  | _, some _, _ => true
  | _, _, some (_, _, _, sl, _, _) => sl
  | none, none, none => false

/-- The wait slot it assigns: bits 19:17 of the extension word, or ws0 (05 R84). -/
def slotOf (i : Instr) : Nat := match extOf i with | some x => x.ws.toNat | none => 0

/-- Registers a source field names under its rule: first code and count. -/
def SRule.regs (r : SRule) (c : Nat) : List (Nat × Nat) :=
  if 128 ≤ c then [] else
  match r with
  | .src | .scalar | .base32 | .vreg => [(c, 1)]
  | .pair _ | .pairSV _ | .pairS _ => [(c, 2)]
  | .quadSV => [(c, 4)]
  | .cas n => [(c, n)]
  | _ => []

/-- Registers a destination field names. -/
def DRule.regs (r : DRule) (d : Nat) : List (Nat × Nat) :=
  match r with | .reg | .vreg => [(d, 1)] | .pair => [(d, 2)] | _ => []

/-- An extension word's third-source registers. -/
def extRegs (c : SRule) (e : Option Ext) : List (Nat × Nat) :=
  match e with | some x => c.regs x.c.toNat | none => []

/-- The registers an instruction reads, in the order source A, source B, third source (06 R115); `cvtpk` and `lmac`
without `.z` also read their destination (09 R173, 17 R290), `mma` its fragment's first register, `frag.cks` its fragment; a store's data
comes last, in the place of a destination (log 108). -/
def readRegs (i : Instr) : List (Nat × Nat) :=
  match shapeOf i, fmOf i, fbOf i, feOf i with
  | some (h, f), _, _, _ =>
    let own := match i with
      | .cvtpk _ _ => [(f.d.toNat, 1)]
      | .lmac _ => if immOf f.ext / 32 % 2 == 1 then [] else [(f.d.toNat, 1)]
      | .mma _ | .mmaZ _ => [(f.d.toNat, 1)]
      | .fragCks _ => [(f.d.toNat, fragCksCount (immOf f.ext))]
      | _ => []
    h.a.regs f.a.toNat ++ h.b.regs f.b.toNat ++ extRegs h.c f.ext ++ own
  | _, some (k, spc, f), _, _ =>
    (if spc == .g then SRule.pairSV true else .base32).regs f.a.toNat ++ extRegs (atomRule k f) f.ext ++
    (if k == .store then [(f.d.toNat, groupRegs f.width.toNat)] else [])
  | _, _, some (r, _, f), _ => if r then (SRule.pairSV false).regs (f.off.toNat / 256) else []
  | _, _, _, some (a, b, _, _, _, f) => a.regs f.a.toNat ++ b.regs f.b.toNat
  | none, none, none, none => []

/-- The registers an instruction names as its destination, W = 1 included: that it names them is what 05 R97 tests, also where its
instruction fills no latch (log 108). -/
def writeRegs (i : Instr) : List (Nat × Nat) :=
  match shapeOf i, fmOf i with
  | some (h, f), _ => match i with
    | .mma _ | .mmaZ _ | .fragCks _ => []
    | _ => h.d.regs f.d.toNat
  | _, some (k, _, f) => if k == .store then [] else [(f.d.toNat, groupRegs f.width.toNat)]
  | none, none => []

/-- Does an instruction with a register result write none (05 R83: W = 1)? -/
def discards (i : Instr) : Bool :=
  match shapeOf i, fmOf i with
  | some (_, f), _ => f.w
  | none, some (_, _, f) => f.w
  | none, none => false
/-- The registers that it writes (05 R83; 09 R180; 11 R189). -/
def writtenRegs (i : Instr) : List (Nat × Nat) := if discards i then [] else writeRegs i

/-- 01 R34, 09 R148, 11 R216: some named register lies at or beyond the window, or beyond s63. -/
def rangeFails (i : Instr) (w : Nat) : Bool :=
  (readRegs i ++ writeRegs i).any fun r => if r.1 < 64 then w < r.1 + r.2 else 128 < r.1 + r.2

/-- 05 R87: the instructions that must be last in their clause. -/
def isTransfer (i : Instr) : Bool :=
  match i with
  | .bra _ | .braLead _ | .call _ | .callr _ | .ret _ | .brar _ | .trap _ | .tret _ => true
  | _ => false

/-- 13 R233: the privileged instructions. -/
def isPrivileged (i : Instr) : Bool :=
  match i with
  | .tret _ | .halt _ | .resume _ | .sstep _ | .pcmpSet _ | .pcmpClr _ | .wptArm _ | .wptClr _ | .mboxWr _ => true
  | .wrsr f => f.d.toNat ∈ [14, 16, 26]
  | _ => false

end Sys2Proof.Machine
end

