-- ==== Sys2Proof/WellFormed.lean ====
section
/-! DEFINITION. A well-formed instruction: a word of a program none of whose own fields is illegal (05 R106). -/

namespace Sys2Proof

/-- Has the constructor a word of its own (the 94 steps of the hardware have none)? -/
def Instr.isWord (i : Instr) : Bool :=
  (Machine.shapeOf i).isSome || (Machine.fmOf i).isSome || (Machine.fbOf i).isSome || (Machine.feOf i).isSome

/-- A word of a program that raises no illegal-encoding trap by its own fields. -/
def WellFormed (i : Instr) : Bool := i.isWord && (Machine.bads i).isEmpty

end Sys2Proof
end

