-- ==== Sys2Proof/Decode.lean ====
section
/-! DEFINITION. Decoding and encoding (05 R77-R106): the header, the word formats, the opcode maps, a whole clause with
the first illegal pattern it holds, and the encoder of a well-formed instruction. -/

namespace Sys2Proof

open Machine

/-! Word formats (05 R83-R88). -/

/-- 05 R82: bit 24 marks the next word as an extension word. -/
def hasX (w : Word) : Bool := w.getLsbD 24
/-- 05 R83: bits 31:25. -/
def opcode (w : Word) : Nat := (w.extractLsb' 25 7).toNat

/-- 05 R84. -/
def Ext.ofWord (w : Word) : Ext :=
  { c := w.extractLsb' 24 8, pn := w.getLsbD 23, p := w.extractLsb' 20 3, ws := w.extractLsb' 17 3,
    imm := w.extractLsb' 0 17 }
/-- 05 R83. -/
def FR.ofWord (w : Word) (e : Option Ext) : FR :=
  { w := w.getLsbD 23, d := w.extractLsb' 16 7, a := w.extractLsb' 8 8, b := w.extractLsb' 0 8, ext := e }
/-- 05 R86. -/
def FM.ofWord (w : Word) (e : Option Ext) : FM :=
  { w := w.getLsbD 23, d := w.extractLsb' 16 7, a := w.extractLsb' 8 8, width := w.extractLsb' 5 3,
    order := w.extractLsb' 3 2, scope := w.extractLsb' 0 3, ext := e }
/-- 05 R87. -/
def FB.ofWord (w : Word) (e : Option Ext) : FB :=
  { n := w.getLsbD 23, i := w.extractLsb' 20 3, frame := w.extractLsb' 16 4, off := w.extractLsb' 0 16, ext := e }
/-- 05 R88. -/
def FE.ofWord (w : Word) (e : Option Ext) : FE :=
  { tb := w.extractLsb' 18 6, comp := w.extractLsb' 16 2, a := w.extractLsb' 8 8, b := w.extractLsb' 0 8, ext := e }

/-- 05 R84, written back. -/
def Ext.word (x : Ext) : Word := x.c ++ (BitVec.ofBool x.pn ++ (x.p ++ (x.ws ++ x.imm)))
/-- An instruction word and its extension word. -/
def withExt (w : Word) (e : Option Ext) : List Word :=
  match e with | some x => [w, x.word] | none => [w]
/-- Opcode and X, bits 31:24. -/
def opX (op : BitVec 7) (e : Option Ext) : BitVec 8 := op ++ BitVec.ofBool e.isSome
/-- 05 R83, written back. -/
def FR.words (op : BitVec 7) (f : FR) : List Word :=
  withExt (opX op f.ext ++ (BitVec.ofBool f.w ++ (f.d ++ (f.a ++ f.b)))) f.ext
/-- 05 R86, written back. -/
def FM.words (op : BitVec 7) (f : FM) : List Word :=
  withExt (opX op f.ext ++ (BitVec.ofBool f.w ++ (f.d ++ (f.a ++ (f.width ++ (f.order ++ f.scope)))))) f.ext
/-- 05 R87, written back. -/
def FB.words (op : BitVec 7) (f : FB) : List Word :=
  withExt (opX op f.ext ++ (BitVec.ofBool f.n ++ (f.i ++ (f.frame ++ f.off)))) f.ext
/-- 05 R88, written back. -/
def FE.words (op : BitVec 7) (f : FE) : List Word :=
  withExt (opX op f.ext ++ (f.tb ++ (f.comp ++ (f.a ++ f.b)))) f.ext

/-! Opcode maps (05 R98-R105). -/

/-- 05 R99: the opcodes that classes U and L share. -/
def decodeUL (k : UL) (op : Nat) (f : FR) : Option Instr :=
  match op with
  | 0x00 => some (.iadd k f) | 0x01 => some (.isub k f) | 0x02 => some (.imul k f) | 0x03 => some (.imulhi k f)
  | 0x04 => some (.imad k f) | 0x05 => some (.idivs k f) | 0x06 => some (.imin k f) | 0x07 => some (.imax k f)
  | 0x08 => some (.iabs k f) | 0x09 => some (.ineg k f) | 0x0A => some (.shl k f) | 0x0B => some (.shr k f)
  | 0x0C => some (.sar k f) | 0x0D => some (.rotl k f) | 0x0E => some (.rotr k f) | 0x0F => some (.dsh k f)
  | 0x10 => some (.popc k f) | 0x11 => some (.clz k f) | 0x12 => some (.ctz k f) | 0x13 => some (.brev k f)
  | 0x14 => some (.bfx k f) | 0x15 => some (.bfi k f) | 0x16 => some (.clmul k f) | 0x17 => some (.clmulh k f)
  | 0x18 => some (.and k f) | 0x19 => some (.or k f) | 0x1A => some (.xor k f) | 0x1B => some (.not k f)
  | 0x1C => some (.lgc3 k f) | 0x1D => some (.mov k f) | 0x1E => some (.sel k f) | 0x1F => some (.icmp k f)
  | 0x20 => some (.fadd k f) | 0x21 => some (.fsub k f) | 0x22 => some (.fmul k f) | 0x23 => some (.fma k f)
  | 0x24 => some (.fmin k f) | 0x25 => some (.fmax k f) | 0x26 => some (.fabs k f) | 0x27 => some (.fneg k f)
  | 0x28 => some (.fcopysign k f) | 0x29 => some (.frcp k f) | 0x2A => some (.frsq k f) | 0x2B => some (.fsqrt k f)
  | 0x2C => some (.fexp2 k f) | 0x2D => some (.flog2 k f) | 0x2E => some (.fround k f) | 0x2F => some (.fclass k f)
  | 0x30 => some (.fcmp k f) | 0x31 => some (.cvt k f) | 0x32 => some (.cvtpk k f) | 0x33 => some (.cvtsp k f)
  | 0x34 => some (.plop k f) | 0x35 => some (.ppack k f) | 0x36 => some (.punpk k f)
  | _ => none

/-- 05 R99: the opcodes of class L alone. -/
def decodeL (op : Nat) (f : FR) : Option Instr :=
  match op with
  | 0x40 => some (.xfrom f) | 0x41 => some (.xlow f) | 0x42 => some (.xhigh f) | 0x43 => some (.xpair f)
  | 0x44 => some (.vany f) | 0x45 => some (.vall f) | 0x46 => some (.vballot f) | 0x47 => some (.scanadd f)
  | 0x48 => some (.scanxor f) | 0x49 => some (.scanmax f) | 0x4A => some (.scanmin f) | 0x4B => some (.redadd f)
  | 0x4C => some (.redmax f) | 0x4D => some (.redmin f) | 0x4E => some (.redxor f) | 0x4F => some (.srseed f)
  | _ => none

/-- 05 R100: loads, stores and atomics. -/
def decodeMem (op : Nat) (f : FM) : Option Instr :=
  match op with
  | 0x00 => some (.ldG f) | 0x01 => some (.ldSh f) | 0x02 => some (.ldSp f) | 0x04 => some (.stG f)
  | 0x05 => some (.stSh f) | 0x06 => some (.stSp f) | 0x08 => some (.atomGAdd f) | 0x09 => some (.atomGMin f)
  | 0x0A => some (.atomGMax f) | 0x0B => some (.atomGAnd f) | 0x0C => some (.atomGOr f) | 0x0D => some (.atomGXor f)
  | 0x0E => some (.atomGXchg f) | 0x0F => some (.atomGCas f) | 0x10 => some (.atomGFadd f)
  | 0x11 => some (.atomGFmin f) | 0x12 => some (.atomGFmax f) | 0x18 => some (.atomShAdd f)
  | 0x19 => some (.atomShMin f) | 0x1A => some (.atomShMax f) | 0x1B => some (.atomShAnd f)
  | 0x1C => some (.atomShOr f) | 0x1D => some (.atomShXor f) | 0x1E => some (.atomShXchg f)
  | 0x1F => some (.atomShCas f) | 0x20 => some (.atomShFadd f) | 0x21 => some (.atomShFmin f)
  | 0x22 => some (.atomShFmax f) | 0x28 => some (.atomSpAdd f) | 0x29 => some (.atomSpMin f)
  | 0x2A => some (.atomSpMax f) | 0x2B => some (.atomSpAnd f) | 0x2C => some (.atomSpOr f)
  | 0x2D => some (.atomSpXor f) | 0x2E => some (.atomSpXchg f) | 0x2F => some (.atomSpCas f)
  | 0x30 => some (.atomSpFadd f) | 0x31 => some (.atomSpFmin f) | 0x32 => some (.atomSpFmax f)
  | _ => none

/-- 05 R100: fences, barriers and queues. -/
def decodeM (op : Nat) (f : FR) : Option Instr :=
  match op with
  | 0x38 => some (.fence f) | 0x39 => some (.vfence f) | 0x3A => some (.barSet f) | 0x3B => some (.barArr f)
  | 0x3C => some (.barSync f) | 0x3D => some (.tbExpect f) | 0x3E => some (.tbArrive f) | 0x3F => some (.tbWait f)
  | 0x40 => some (.ccWait f) | 0x41 => some (.qpush f)
  | _ => none

/-- 05 R101: branches and calls. -/
def decodeBranch (op : Nat) (f : FB) : Option Instr :=
  match op with
  | 0x00 => some (.bra f) | 0x01 => some (.braLead f) | 0x02 => some (.call f) | 0x03 => some (.callr f)
  | 0x05 => some (.brar f)
  | _ => none

/-- 05 R101: the other control instructions. -/
def decodeK (op : Nat) (f : FR) : Option Instr :=
  match op with
  | 0x04 => some (.ret f) | 0x06 => some (.exit f) | 0x07 => some (.trap f) | 0x08 => some (.tret f)
  | 0x09 => some (.regang f)
  | _ => none

/-- 05 R102: class T. -/
def decodeT (op : Nat) (f : FR) : Option Instr :=
  match op with
  | 0x00 => some (.tsRsv f) | 0x01 => some (.tsRel f) | 0x02 => some (.tsRec f) | 0x03 => some (.tsWr f)
  | 0x04 => some (.tsRd f) | 0x05 => some (.tsSync f) | 0x06 => some (.tsCk f) | 0x07 => some (.tsCks f)
  | 0x08 => some (.gangSet f) | 0x09 => some (.mma f) | 0x0A => some (.mmaZ f) | 0x0B => some (.commit f)
  | 0x0C => some (.commitOrd f) | 0x0D => some (.accClose f) | 0x0E => some (.fragLd f) | 0x0F => some (.fragCks f)
  | _ => none

/-- 05 R103: class C. -/
def decodeC (op : Nat) (f : FR) : Option Instr :=
  match op with
  | 0x00 => some (.lbind f) | 0x01 => some (.lunbind f) | 0x02 => some (.ladd f) | 0x03 => some (.laddc f)
  | 0x04 => some (.lsub f) | 0x05 => some (.lsubb f) | 0x06 => some (.lneg f) | 0x07 => some (.lcmp f)
  | 0x08 => some (.lshl f) | 0x09 => some (.lshr f) | 0x0A => some (.lshlw f) | 0x0B => some (.lshrw f)
  | 0x0C => some (.lmac f) | 0x0D => some (.lnorm f) | 0x0E => some (.lld f) | 0x0F => some (.lst f)
  | 0x10 => some (.lovf f)
  | _ => none

/-- 05 R104: class E. -/
def decodeE (op : Nat) (f : FE) : Option Instr :=
  match op with
  | 0x00 => some (.copy f) | 0x01 => some (.copyts f) | 0x02 => some (.collStart f) | 0x03 => some (.collRearm f)
  | 0x04 => some (.collReady f) | 0x05 => some (.cardEnq f) | 0x06 => some (.graphLaunch f) | 0x07 => some (.tbInit f)
  | 0x08 => some (.cntInit f) | 0x09 => some (.wgtSet f)
  | _ => none

/-- 05 R105: class S. -/
def decodeS (op : Nat) (f : FR) : Option Instr :=
  match op with
  | 0x00 => some (.rdsr f) | 0x01 => some (.wrsr f) | 0x02 => some (.brk f) | 0x03 => some (.sstep f)
  | 0x04 => some (.wptArm f) | 0x05 => some (.wptClr f) | 0x06 => some (.pcmpSet f) | 0x07 => some (.pcmpClr f)
  | 0x08 => some (.prefetch f) | 0x09 => some (.cinv f) | 0x0A => some (.cwb f) | 0x0B => some (.smpl f)
  | 0x0C => some (.mboxWr f) | 0x0D => some (.halt f) | 0x0E => some (.resume f)
  | _ => none

/-- 05 R83-R105: the words of an instruction; a step of the hardware has none. -/
def encode (i : Instr) : List Word :=
  match i with
  | .iadd _ f => f.words 0x00
  | .isub _ f => f.words 0x01
  | .imul _ f => f.words 0x02
  | .imulhi _ f => f.words 0x03
  | .imad _ f => f.words 0x04
  | .idivs _ f => f.words 0x05
  | .imin _ f => f.words 0x06
  | .imax _ f => f.words 0x07
  | .iabs _ f => f.words 0x08
  | .ineg _ f => f.words 0x09
  | .shl _ f => f.words 0x0A
  | .shr _ f => f.words 0x0B
  | .sar _ f => f.words 0x0C
  | .rotl _ f => f.words 0x0D
  | .rotr _ f => f.words 0x0E
  | .dsh _ f => f.words 0x0F
  | .popc _ f => f.words 0x10
  | .clz _ f => f.words 0x11
  | .ctz _ f => f.words 0x12
  | .brev _ f => f.words 0x13
  | .bfx _ f => f.words 0x14
  | .bfi _ f => f.words 0x15
  | .clmul _ f => f.words 0x16
  | .clmulh _ f => f.words 0x17
  | .and _ f => f.words 0x18
  | .or _ f => f.words 0x19
  | .xor _ f => f.words 0x1A
  | .not _ f => f.words 0x1B
  | .lgc3 _ f => f.words 0x1C
  | .mov _ f => f.words 0x1D
  | .sel _ f => f.words 0x1E
  | .icmp _ f => f.words 0x1F
  | .fadd _ f => f.words 0x20
  | .fsub _ f => f.words 0x21
  | .fmul _ f => f.words 0x22
  | .fma _ f => f.words 0x23
  | .fmin _ f => f.words 0x24
  | .fmax _ f => f.words 0x25
  | .fabs _ f => f.words 0x26
  | .fneg _ f => f.words 0x27
  | .fcopysign _ f => f.words 0x28
  | .frcp _ f => f.words 0x29
  | .frsq _ f => f.words 0x2A
  | .fsqrt _ f => f.words 0x2B
  | .fexp2 _ f => f.words 0x2C
  | .flog2 _ f => f.words 0x2D
  | .fround _ f => f.words 0x2E
  | .fclass _ f => f.words 0x2F
  | .fcmp _ f => f.words 0x30
  | .cvt _ f => f.words 0x31
  | .cvtpk _ f => f.words 0x32
  | .cvtsp _ f => f.words 0x33
  | .plop _ f => f.words 0x34
  | .ppack _ f => f.words 0x35
  | .punpk _ f => f.words 0x36
  | .xfrom f => f.words 0x40
  | .xlow f => f.words 0x41
  | .xhigh f => f.words 0x42
  | .xpair f => f.words 0x43
  | .vany f => f.words 0x44
  | .vall f => f.words 0x45
  | .vballot f => f.words 0x46
  | .scanadd f => f.words 0x47
  | .scanxor f => f.words 0x48
  | .scanmax f => f.words 0x49
  | .scanmin f => f.words 0x4A
  | .redadd f => f.words 0x4B
  | .redmax f => f.words 0x4C
  | .redmin f => f.words 0x4D
  | .redxor f => f.words 0x4E
  | .srseed f => f.words 0x4F
  | .ldG f => f.words 0x00
  | .ldSh f => f.words 0x01
  | .ldSp f => f.words 0x02
  | .stG f => f.words 0x04
  | .stSh f => f.words 0x05
  | .stSp f => f.words 0x06
  | .atomGAdd f => f.words 0x08
  | .atomGMin f => f.words 0x09
  | .atomGMax f => f.words 0x0A
  | .atomGAnd f => f.words 0x0B
  | .atomGOr f => f.words 0x0C
  | .atomGXor f => f.words 0x0D
  | .atomGXchg f => f.words 0x0E
  | .atomGCas f => f.words 0x0F
  | .atomGFadd f => f.words 0x10
  | .atomGFmin f => f.words 0x11
  | .atomGFmax f => f.words 0x12
  | .atomShAdd f => f.words 0x18
  | .atomShMin f => f.words 0x19
  | .atomShMax f => f.words 0x1A
  | .atomShAnd f => f.words 0x1B
  | .atomShOr f => f.words 0x1C
  | .atomShXor f => f.words 0x1D
  | .atomShXchg f => f.words 0x1E
  | .atomShCas f => f.words 0x1F
  | .atomShFadd f => f.words 0x20
  | .atomShFmin f => f.words 0x21
  | .atomShFmax f => f.words 0x22
  | .atomSpAdd f => f.words 0x28
  | .atomSpMin f => f.words 0x29
  | .atomSpMax f => f.words 0x2A
  | .atomSpAnd f => f.words 0x2B
  | .atomSpOr f => f.words 0x2C
  | .atomSpXor f => f.words 0x2D
  | .atomSpXchg f => f.words 0x2E
  | .atomSpCas f => f.words 0x2F
  | .atomSpFadd f => f.words 0x30
  | .atomSpFmin f => f.words 0x31
  | .atomSpFmax f => f.words 0x32
  | .fence f => f.words 0x38
  | .vfence f => f.words 0x39
  | .barSet f => f.words 0x3A
  | .barArr f => f.words 0x3B
  | .barSync f => f.words 0x3C
  | .tbExpect f => f.words 0x3D
  | .tbArrive f => f.words 0x3E
  | .tbWait f => f.words 0x3F
  | .ccWait f => f.words 0x40
  | .qpush f => f.words 0x41
  | .bra f => f.words 0x00
  | .braLead f => f.words 0x01
  | .call f => f.words 0x02
  | .callr f => f.words 0x03
  | .ret f => f.words 0x04
  | .brar f => f.words 0x05
  | .exit f => f.words 0x06
  | .trap f => f.words 0x07
  | .tret f => f.words 0x08
  | .regang f => f.words 0x09
  | .tsRsv f => f.words 0x00
  | .tsRel f => f.words 0x01
  | .tsRec f => f.words 0x02
  | .tsWr f => f.words 0x03
  | .tsRd f => f.words 0x04
  | .tsSync f => f.words 0x05
  | .tsCk f => f.words 0x06
  | .tsCks f => f.words 0x07
  | .gangSet f => f.words 0x08
  | .mma f => f.words 0x09
  | .mmaZ f => f.words 0x0A
  | .commit f => f.words 0x0B
  | .commitOrd f => f.words 0x0C
  | .accClose f => f.words 0x0D
  | .fragLd f => f.words 0x0E
  | .fragCks f => f.words 0x0F
  | .lbind f => f.words 0x00
  | .lunbind f => f.words 0x01
  | .ladd f => f.words 0x02
  | .laddc f => f.words 0x03
  | .lsub f => f.words 0x04
  | .lsubb f => f.words 0x05
  | .lneg f => f.words 0x06
  | .lcmp f => f.words 0x07
  | .lshl f => f.words 0x08
  | .lshr f => f.words 0x09
  | .lshlw f => f.words 0x0A
  | .lshrw f => f.words 0x0B
  | .lmac f => f.words 0x0C
  | .lnorm f => f.words 0x0D
  | .lld f => f.words 0x0E
  | .lst f => f.words 0x0F
  | .lovf f => f.words 0x10
  | .copy f => f.words 0x00
  | .copyts f => f.words 0x01
  | .collStart f => f.words 0x02
  | .collRearm f => f.words 0x03
  | .collReady f => f.words 0x04
  | .cardEnq f => f.words 0x05
  | .graphLaunch f => f.words 0x06
  | .tbInit f => f.words 0x07
  | .cntInit f => f.words 0x08
  | .wgtSet f => f.words 0x09
  | .rdsr f => f.words 0x00
  | .wrsr f => f.words 0x01
  | .brk f => f.words 0x02
  | .sstep f => f.words 0x03
  | .wptArm f => f.words 0x04
  | .wptClr f => f.words 0x05
  | .pcmpSet f => f.words 0x06
  | .pcmpClr f => f.words 0x07
  | .prefetch f => f.words 0x08
  | .cinv f => f.words 0x09
  | .cwb f => f.words 0x0A
  | .smpl f => f.words 0x0B
  | .mboxWr f => f.words 0x0C
  | .halt f => f.words 0x0D
  | .resume f => f.words 0x0E
  | .clauseIssue .. | .regangDeadline .. | .teamBarrierTimeout .. | .waitTimeout .. | .groupRetire ..
  | .strikeQuarantineExpiry .. | .homeSliceWrite .. | .homeSliceAtomic .. | .homeSliceRead ..
  | .ownershipRevocation .. | .acknowledgement .. | .fillArrival .. | .leaseExpiry .. | .slotCompletion ..
  | .vfenceRelease .. | .lineEviction .. | .leasectlWrite | .qtailDoorbell | .qbaseWrite
  | .cardEnqueue .. | .graphEnqueue .. | .cardStart .. | .cardComplete .. | .bindRecordWrite | .teamStart ..
  | .preemptCommand | .killCommand | .drainComplete .. | .drainTimeout .. | .saveRecordWritten ..
  | .lateAccessLost .. | .copyDescriptorRead .. | .copySliceComplete .. | .engineQueuePush ..
  | .collectiveContribution | .collectiveEntryRun .. | .collectiveTimeout .. | .collectiveAbort
  | .counterQuery | .counterQueryTimeout .. | .mmaStepStart .. | .commitMerge .. | .closeArrival ..
  | .tsInjection | .invalidate | .moveInvalidate | .invalidationDone .. | .resolveReplay
  | .resolveFail | .resolveKill | .fqtailWrite | .strikeReport | .engineStrikeReport
  | .laneFailCommand | .laneTakeover .. | .scrubPass | .flitRetry | .ageingCheck .. | .clockStep ..
  | .agectlWrite | .sliceReplacement | .hbmRowRepair | .linkLaneSwap | .linkFailover
  | .thermalTrip | .powerOn | .deviceReset | .selfTestComplete | .firmwareBoot
  | .attestationRequest | .traceRecordStore .. | .snapshotRequest | .snapshotTake | .snapshotEnd
  | .mboxPop | .debugHalt | .debugResume | .debugStep | .irqmaskWrite | .hostAccess
  | .remoteAccess | .remoteTimeout .. | .dirtyBitmapFetchClear | .migrationStart | .migrationRound
  | .migrationStop | .migrationTransfer | .migrationKeyLoad | .registerWrite
  | .revocationConfirmation .. | .counterQueryAnswer | .snapshotForwardReceived | .pwrcapClockChange
  | .hbmChannelLoss => []

/-- The instruction of a word (and its extension word) in a class; none where the opcode is reserved (05 R98). -/
def decodeInstr (c : Cls) (w : Word) (e : Option Ext) : Option Instr :=
  match c with
  | .U => decodeUL .U (opcode w) (.ofWord w e)
  | .L => if opcode w < 0x40 then decodeUL .L (opcode w) (.ofWord w e) else decodeL (opcode w) (.ofWord w e)
  | .M => if opcode w < 0x38 then decodeMem (opcode w) (.ofWord w e) else decodeM (opcode w) (.ofWord w e)
  | .K =>
    if opcode w < 4 || opcode w == 5 then decodeBranch (opcode w) (.ofWord w e) else decodeK (opcode w) (.ofWord w e)
  | .T => decodeT (opcode w) (.ofWord w e)
  | .C => decodeC (opcode w) (.ofWord w e)
  | .E => decodeE (opcode w) (.ofWord w e)
  | .S => decodeS (opcode w) (.ofWord w e)

/-- The next instruction of a class's words, with the words after it (05 R82). -/
def decodeNext (c : Cls) (ws : List Word) : Option (Instr × List Word) :=
  match ws with
  | [] => none
  | w :: r =>
    if hasX w then
      match r with
      | [] => (decodeInstr c w none).map fun i => (i, [])
      | x :: r' => (decodeInstr c w (some (.ofWord x))).map fun i => (i, r')
    else (decodeInstr c w none).map fun i => (i, r)

/-! Clauses (05 R77-R82). -/

/-- 05 R79: the class of a code. -/
def clsOfCode (n : Nat) : Option Cls :=
  match n with
  | 0 => some .U | 1 => some .L | 2 => some .M | 3 => some .K | 4 => some .T | 5 => some .C | 6 => some .E
  | 7 => some .S | _ => none
/-- 05 R79: the code of a class. -/
def Cls.code (c : Cls) : BitVec 4 :=
  match c with
  | .U => 0 | .L => 1 | .M => 2 | .K => 3 | .T => 4 | .C => 5 | .E => 6 | .S => 7

/-- 05 R106: the illegal patterns of a header word. -/
def headerBads (h : Word) : List Bad :=
  if h.extractLsb' 28 4 ≠ 15 then [{ off := 0, reason := 11, field := (h.extractLsb' 28 4).toNat }] else
  (if (h.extractLsb' 20 4).toNat < 8 then [] else [{ off := 0, reason := 0, field := (h.extractLsb' 20 4).toNat }]) ++
  (if h.extractLsb' 24 4 == 0 then [{ off := 0, reason := 1, field := 0 }] else []) ++
  (if h &&& 0xCF == 0 then [] else [{ off := 0, reason := 2, field := (h &&& 0xCF).toNat }]) ++
  (if h.extractLsb' 8 4 == 15 then [{ off := 0, reason := 3, field := 15 }] else [])

/-- 05 R78: the header of a legal header word. -/
def headerOf (h : Word) (c : Cls) : Header :=
  { n := h.extractLsb' 24 4, cls := c, wait := h.extractLsb' 12 8, pn := h.getLsbD 11, p := h.extractLsb' 8 3,
    last := h.getLsbD 5, yield := h.getLsbD 4 }

/-- 05 R78, written back. -/
def Header.word (h : Header) : Word :=
  (0xF : BitVec 4) ++ (h.n ++ (h.cls.code ++ (h.wait ++ (BitVec.ofBool h.pn ++ (h.p ++ ((0 : BitVec 2) ++
    (BitVec.ofBool h.last ++ (BitVec.ofBool h.yield ++ (0 : BitVec 4)))))))))

/-- The source fields of an instruction, by word: where a bypass latch may be named (05 R91). -/
def sourceCodes (i : Instr) : List (Nat × Nat) :=
  let x (e : Option Ext) : List (Nat × Nat) := match e with | some x => [(1, x.c.toNat)] | none => []
  match shapeOf i, fmOf i, fbOf i, feOf i with
  | some (_, f), _, _, _ => [(0, f.a.toNat), (0, f.b.toNat)] ++ x f.ext
  | _, some (_, _, f), _, _ => [(0, f.a.toNat)] ++ x f.ext
  | _, _, some (r, _, f), _ => if r then [(0, f.off.toNat / 256)] else []
  | _, _, _, some (_, _, _, _, _, f) => [(0, f.a.toNat), (0, f.b.toNat)]
  | none, none, none, none => []

/-- 05 R93: does the instruction shift in a result (or an empty entry)? -/
def fillsLatch (i : Instr) : Bool :=
  match i with
  | .mma _ | .mmaZ _ | .fragCks _ => false
  | _ => match shapeOf i with
    | some (h, _) => !h.slot && h.d ∈ [.reg, .pair, .vreg]
    | none => false

/-- 05 R93, R106 reason 8: reads of latch positions that hold nothing. -/
def latchBads (i : Instr) (lat : List Bool) : List Bad :=
  (sourceCodes i).filterMap fun (off, c) =>
    if 128 ≤ c && c < 132 && !lat.getD (c - 128) false then some { off := off, reason := 8, field := c } else none

/-- An illegal pattern of a clause: word index, reason and field value (05 R107). -/
def Bad.at (b : Bad) (widx : Nat) : IllegalAt :=
  { widx := widx + b.off, reason := b.reason, fieldv := b.field % 256 }

/-- The illegal patterns of the word at the head of `w :: r`, which stands last where `r` is empty (05 R82, R106). A
predicate field of 0xF is reason 9 alone, the reserved opcode it makes left aside (log 109). -/
def wordBads (c : Cls) (w : Word) (r : List Word) (lat : List Bool) : List Bad :=
  if w.extractLsb' 28 4 == 15 then [{ off := 0, reason := 9, field := 15 }] else
  (if hasX w && r.isEmpty then [{ off := 0, reason := 6, field := 1 }] else []) ++
  match decodeNext c (w :: r) with
  | none => [{ off := 0, reason := 4, field := opcode w }]
  | some (i, rest) =>
    bads i ++ latchBads i lat ++
    (if isTransfer i && !rest.isEmpty then [{ off := 0, reason := 10, field := opcode w }] else [])

/-- The words of a clause after its header: the instructions with their word indices, or the first illegal pattern. -/
def decodeWords (c : Cls) (widx : Nat) (lat : List Bool) (ws : List Word) : Except IllegalAt (List (Nat × Instr)) :=
  match ws with
  | [] => .ok []
  | w :: r =>
    match worst (wordBads c w r lat), decodeNext c (w :: r) with
    | some b, _ => .error (Bad.at b widx)
    | none, none => .error { widx := widx, reason := 4, fieldv := opcode w }
    | none, some (i, _) =>
      let lat' := (fillsLatch i :: lat).take 4
      let tail :=
        if hasX w then
          match r with
          | [] => .ok []
          | _ :: r' => decodeWords c (widx + 2) lat' r'
        else decodeWords c (widx + 1) lat' r
      match tail with
      | .ok l => .ok ((widx, i) :: l)
      | .error e => .error e

/-- 05 R80 step 2: the header and the instructions of a whole clause, or the illegal pattern that ENCDET names. -/
def decodeClause (h : Word) (ws : List Word) : Except IllegalAt (Header × List (Nat × Instr)) :=
  match worst (headerBads h), clsOfCode (h.extractLsb' 20 4).toNat with
  | some b, _ => .error (Bad.at b 0)
  | none, none => .error { widx := 0, reason := 0, fieldv := (h.extractLsb' 20 4).toNat }
  | none, some c =>
    match decodeWords c 1 [] ws with
    | .ok l => .ok (headerOf h c, l)
    | .error e => .error e

/-- 05 R107: the value of ENCDET. -/
def IllegalAt.encdet (e : IllegalAt) : Word := BitVec.ofNat 32 (e.widx % 16 + e.reason % 16 * 16 + e.fieldv % 256 * 256)

/-- 00 R7: the word of four bytes, the lowest address first. -/
def wordOfBytes (b : List Byte) : Word :=
  b.getD 3 0 ++ (b.getD 2 0 ++ (b.getD 1 0 ++ b.getD 0 0))
/-- The bytes of a word, the lowest address first. -/
def bytesOfWord (w : Word) : List Byte :=
  [w.extractLsb' 0 8, w.extractLsb' 8 8, w.extractLsb' 16 8, w.extractLsb' 24 8]
/-- The words that a run of bytes holds; bytes past the last whole word are left. -/
def wordsOfBytes (b : List Byte) : List Word :=
  match b with
  | b0 :: b1 :: b2 :: b3 :: r => (b3 ++ (b2 ++ (b1 ++ b0)) : Word) :: wordsOfBytes r
  | _ => []
/-- A clause out of the bytes at its address: total on any bytes. -/
def decodeBytes (b : List Byte) : Except IllegalAt (Header × List (Nat × Instr)) :=
  match wordsOfBytes b with
  | [] => .error { widx := 0, reason := 11, fieldv := 0 }
  | h :: ws => decodeClause h (ws.take (h.extractLsb' 24 4).toNat)

/-- The classes in the order `decodeTableWord` tries them: a class that admits fewer words first (log 8). -/
def tableClasses : List Cls := [.S, .E, .C, .T, .K, .M, .L, .U]

/-- The first class of `tableClasses` that reads the words as an instruction that a test accepts, with it. -/
def tableFind (ok : Instr → Bool) (ws : List Word) : Option (Cls × Instr) :=
  tableClasses.findSome? fun c =>
    match decodeNext c ws with
    | some (i, _) => if ok i then some (c, i) else none
    | none => none

/-- The class in which the words hold an instruction, with it. A word does not name its class: the clause header does
(05 R77), so this is the first class that reads a well-formed instruction there, else the first that reads any (log 8). -/
def tableDecode (ws : List Word) : Option (Cls × Instr) :=
  match tableFind WellFormed ws with
  | some r => some r
  | none => tableFind (fun _ => true) ws

/-- The words that the table's number stands for: the instruction word, and a zero word after it. -/
def tableWords (nbits w : Nat) : List Word :=
  [BitVec.ofNat 32 (w % 2 ^ nbits), BitVec.ofNat 32 (w % 2 ^ nbits / 2 ^ 32)]

/-- The instruction that the decoder reads from a row's bits. -/
def decodeTableWord (nbits w : Nat) : Option Instr := (tableDecode (tableWords nbits w)).map (·.2)

end Sys2Proof
end

