-- ==== Sys2Proof/Machine/Bits.lean ====
section
/-! DEFINITION. The general helpers of 00 R13 and of 09 (counts, fields, carry-less products), and tables by key. -/

namespace Sys2Proof.Machine

/-- 00 R13 `bits(x, h, l)`, by low bit and length. -/
def field (x lo len : Nat) : Nat := x / 2 ^ lo % 2 ^ len
/-- 00 R13 `sext(x, n)`. -/
def sext (x n : Nat) : Int := if x % 2 ^ n < 2 ^ (n - 1) then ((x % 2 ^ n : Nat) : Int) else (x % 2 ^ n : Nat) - (2 ^ n : Nat)
/-- 00 R13 `clamp`. -/
def clamp (x lo hi : Int) : Int := if x < lo then lo else if x > hi then hi else x
/-- A word from an exact integer: its low 32 bits (00 R13 `trunc`). -/
def w32 (x : Int) : Word := BitVec.ofInt 32 x
/-- A word from a natural number: its low 32 bits. -/
def wn (x : Nat) : Word := BitVec.ofNat 32 x
/-- Bits of a natural number: 0 for 0, else 1 + floor(log2 n). -/
def bitLen (n : Nat) : Nat := if n = 0 then 0 else Nat.log2 n + 1
/-- 00 R13 `clog2`. -/
def clog2 (x : Nat) : Nat := if x ≤ 1 then 0 else bitLen (x - 1)
/-- `a` rounded up to a multiple of `n`. -/
def roundUp (a n : Nat) : Nat := (a + n - 1) / n * n

/-- The numbers of the set bits of a mask among its `n` low bits, rising. -/
def bitsOf (m n : Nat) : List Nat := (List.range n).filter fun i => m.testBit i
/-- The mask of a list of numbers. -/
def maskOf (l : List Nat) : Nat := l.foldl (fun m i => m ||| 2 ^ i) 0

/-- 09 R158 `popc`. -/
def popCount (x : Word) : Nat := (bitsOf x.toNat 32).length
/-- 09 R158 `clz`. -/
def leadZeros (x : Word) : Nat := 32 - bitLen x.toNat
/-- 09 R158 `ctz`. -/
def trailZeros (x : Word) : Nat := ((List.range 32).find? fun i => x.getLsbD i).getD 32
/-- 09 R158 `brev`. -/
def bitRev (x : Word) : Word := BitVec.ofNat 32 (maskOf ((bitsOf x.toNat 32).map (31 - ·)))
/-- 09 R159: the product of polynomials over GF(2). -/
def clProduct (a b : Word) : Nat :=
  (List.range 32).foldl (fun p i => if b.getLsbD i then p ^^^ (a.toNat <<< i) else p) 0
/-- 09 R160: bit i of the result is bit (a(i) + 2 b(i) + 4 c(i)) of the table. -/
def logic3 (a b c : Word) (tt : Nat) : Word :=
  BitVec.ofNat 32 (maskOf ((List.range 32).filter fun i =>
    tt.testBit ((a.getLsbD i).toNat + 2 * (b.getLsbD i).toNat + 4 * (c.getLsbD i).toNat)))

/-- 03 R64 `xs32`. -/
def xs32 (s : Word) : Word :=
  let s := s ^^^ (s <<< 13)
  let s := s ^^^ (s >>> 17)
  s ^^^ (s <<< 5)

/-- The largest r with r² ≤ n, found bit by bit from bit `k`. -/
def isqrtAux (n : Nat) : Nat → Nat → Nat
  | 0, r => r
  | k + 1, r => isqrtAux n k (if (r + 2 ^ k) * (r + 2 ^ k) ≤ n then r + 2 ^ k else r)
/-- floor(√n). -/
def isqrt (n : Nat) : Nat := isqrtAux n (bitLen n / 2 + 1) 0

/-- Put an element into a sorted list, after those that do not stand behind it. -/
def insertBy {α : Type} (le : α → α → Bool) (x : α) : List α → List α
  | [] => [x]
  | y :: l => if le y x then y :: insertBy le x l else x :: y :: l
/-- A list in order, equal elements as they stood. -/
def sortBy {α : Type} (le : α → α → Bool) (l : List α) : List α := l.foldl (fun m x => insertBy le x m) []
/-- Numbers in rising order. -/
def sortNat (l : List Nat) : List Nat := sortBy (fun x y => decide (x ≤ y)) l

/-! Tables by key, in rising order of their keys. -/

/-- The value at a key, if there is one. -/
def tget? {α : Type} (t : Tbl α) (k : Nat) : Option α :=
  match t with
  | [] => none
  | (j, v) :: r => if j = k then some v else tget? r k
/-- The value at a key, or a default. -/
def tget {α : Type} (t : Tbl α) (k : Nat) (d : α) : α := (tget? t k).getD d
/-- The table with a value at a key. -/
def tset {α : Type} (t : Tbl α) (k : Nat) (v : α) : Tbl α :=
  match t with
  | [] => [(k, v)]
  | (j, w) :: r => if k < j then (k, v) :: (j, w) :: r else if j = k then (k, v) :: r else (j, w) :: tset r k v
/-- The table without a key. -/
def terase {α : Type} (t : Tbl α) (k : Nat) : Tbl α :=
  match t with
  | [] => []
  | (j, w) :: r => if j = k then terase r k else (j, w) :: terase r k
/-- The table with the value at a key changed, if there is one. -/
def tmod {α : Type} (t : Tbl α) (k : Nat) (f : α → α) : Tbl α :=
  match t with
  | [] => []
  | (j, w) :: r => if j = k then (j, f w) :: tmod r k f else (j, w) :: tmod r k f
/-- The values of a table. -/
def tvals {α : Type} (t : Tbl α) : List α := t.map (·.2)
/-- The keys of a table. -/
def tkeys {α : Type} (t : Tbl α) : List Nat := t.map (·.1)
/-- Keys strictly rising. -/
def tsorted {α : Type} (t : Tbl α) : Bool :=
  match t with
  | [] => true
  | (k, _) :: r => r.all (fun e => k < e.1) && tsorted r

/-- A sorted set of numbers with one more. -/
def sadd (l : List Nat) (n : Nat) : List Nat :=
  match l with
  | [] => [n]
  | x :: r => if n < x then n :: x :: r else if n = x then x :: r else x :: sadd r n
/-- A set of numbers without one. -/
def sdel (l : List Nat) (n : Nat) : List Nat := l.filter (· != n)

/-! Byte memories: a table with no entry equal to 0, which an unlisted address reads as (log 1). -/

/-- The one form in which a memory is held: addresses strictly rising, no entry equal to 0. -/
def Memory.wf (m : Mem) : Bool := tsorted m && m.all fun e => e.2 != 0
/-- The byte at an address. -/
def mget (m : Mem) (a : Nat) : Byte := tget m a 0
/-- The memory with a byte written. -/
def mset (m : Mem) (a : Nat) (b : Byte) : Mem := if b = 0 then terase m a else tset m a b
/-- The bytes from an address on. -/
def mgets (m : Mem) (a n : Nat) : List Byte := (List.range n).map fun i => mget m (a + i)
/-- The memory with bytes written from an address on. -/
def msets (m : Mem) (a : Nat) (l : List Byte) : Mem :=
  match l with
  | [] => m
  | b :: r => msets (mset m a b) (a + 1) r
/-- 00 R7: a number from bytes, the lowest address first. -/
def leNat (l : List Byte) : Nat :=
  match l with
  | [] => 0
  | b :: r => b.toNat + 256 * leNat r
/-- 00 R7: the `n` bytes of a number, the lowest address first. -/
def leBytes (n x : Nat) : List Byte :=
  match n with
  | 0 => []
  | n + 1 => BitVec.ofNat 8 x :: leBytes n (x / 256)

end Sys2Proof.Machine
end

