-- ==== Sys2Proof/Machine/Num.lean ====
section
/-! DEFINITION. Number formats and rounding (03 R49-R69, R76): exact values, decoding, `rnd`, K4X quads, inline constants
and the correctly rounded functions of 09 R164. -/

namespace Sys2Proof.Machine

/-- The formats of 03 R49, with the K4X integer part of R58. -/
inductive Fmt where
  | f32 | f16 | bf16 | e4m3 | e5m2 | e2m1 | k4x | int8 | int32 | uint32 | e8m0 | f64 | ki
deriving DecidableEq, Repr, Inhabited

/-- 03 R49: the format of a code. -/
def Fmt.ofCode (c : Nat) : Fmt :=
  match c with
  | 0 => .f32 | 1 => .f16 | 2 => .bf16 | 3 => .e4m3 | 4 => .e5m2 | 5 => .e2m1 | 6 => .k4x | 7 => .int8 | 8 => .int32
  | 9 => .uint32 | 10 => .e8m0 | 11 => .f64 | _ => .ki

/-- 03 R50: width, fraction bits, bias, code of the largest finite value, infinity and default NaN codes if any. -/
structure FloatP where
  width : Nat
  frac : Nat
  bias : Nat
  maxCode : Nat
  inf : Option Nat
  nan : Option Nat
deriving DecidableEq, Repr

/-- 03 R50, R52: the parameters of the floating-point formats. -/
def Fmt.float? (g : Fmt) : Option FloatP :=
  match g with
  | .f64 => some { width := 64, frac := 52, bias := 1023, maxCode := 0x7FEFFFFFFFFFFFFF,
                   inf := some 0x7FF0000000000000, nan := some 0x7FF8000000000000 }
  | .f32 => some { width := 32, frac := 23, bias := 127, maxCode := 0x7F7FFFFF, inf := some 0x7F800000, nan := some 0x7FC00000 }
  | .f16 => some { width := 16, frac := 10, bias := 15, maxCode := 0x7BFF, inf := some 0x7C00, nan := some 0x7E00 }
  | .bf16 => some { width := 16, frac := 7, bias := 127, maxCode := 0x7F7F, inf := some 0x7F80, nan := some 0x7FC0 }
  | .e4m3 => some { width := 8, frac := 3, bias := 7, maxCode := 0x7E, inf := none, nan := some 0x7F }
  | .e5m2 => some { width := 8, frac := 2, bias := 15, maxCode := 0x7B, inf := some 0x7C, nan := some 0x7E }
  | .e2m1 => some { width := 4, frac := 1, bias := 1, maxCode := 0x7, inf := none, nan := none }
  | .k4x | .int8 | .int32 | .uint32 | .e8m0 | .ki => none

/-- Smallest and largest value of an integer format (03 R54, R58). -/
def Fmt.range? (g : Fmt) : Option (Int × Int) :=
  match g with
  | .int8 => some (-128, 127) | .int32 => some (-2147483648, 2147483647) | .uint32 => some (0, 4294967295)
  | .ki | .k4x => some (-7, 7)
  | .f32 | .f16 | .bf16 | .e4m3 | .e5m2 | .e2m1 | .e8m0 | .f64 => none

/-- Width of an element in bits (03 R49). -/
def Fmt.width (g : Fmt) : Nat :=
  match g with
  | .f32 | .int32 | .uint32 => 32 | .f16 | .bf16 => 16 | .e4m3 | .e5m2 | .int8 | .e8m0 => 8 | .e2m1 | .k4x | .ki => 4
  | .f64 => 64

/-- An exact real value, an infinity or a NaN. A finite value is (−1)^neg × (m + δ) × 2^e, with δ = 0, or 0 < δ < 1 where
`sticky`. -/
inductive Num where
  | nan
  | inf (neg : Bool)
  | fin (neg : Bool) (m : Nat) (e : Int) (sticky : Bool)
deriving DecidableEq, Repr, Inhabited

/-- An integer as an exact value. -/
def Num.ofInt (x : Int) : Num := .fin (x < 0) x.natAbs 0 false
/-- Positive zero. -/
def Num.zero : Num := .fin false 0 0 false
/-- Is the value a zero? -/
def Num.isZero (x : Num) : Bool := match x with | .fin _ m _ st => m == 0 && !st | _ => false
/-- Is the value a NaN? -/
def Num.isNan (x : Num) : Bool := match x with | .nan => true | _ => false
/-- The sign bit of a value. -/
def Num.sign (x : Num) : Bool := match x with | .nan => false | .inf s => s | .fin s _ _ _ => s
/-- The value with its sign inverted. -/
def Num.neg (x : Num) : Num := match x with | .nan => .nan | .inf s => .inf (!s) | .fin s m e t => .fin (!s) m e t
/-- The magnitude of a value. -/
def Num.abs (x : Num) : Num := match x with | .nan => .nan | .inf _ => .inf false | .fin _ m e t => .fin false m e t

/-- 09 R161: the exact product; 0 × ∞ is NaN. -/
def Num.mul (x y : Num) : Num :=
  match x, y with
  | .nan, _ | _, .nan => .nan
  | .inf s, .inf t => .inf (s != t)
  | .inf s, .fin t m _ _ => if m = 0 then .nan else .inf (s != t)
  | .fin t m _ _, .inf s => if m = 0 then .nan else .inf (s != t)
  | .fin s m e _, .fin t n f _ => .fin (s != t) (m * n) (e + f) false

/-- 09 R161: the exact sum; ∞ − ∞ is NaN; an exact zero sum of unlike signs is −0 under RDN and else +0. -/
def Num.add (rdn : Bool) (x y : Num) : Num :=
  match x, y with
  | .nan, _ | _, .nan => .nan
  | .inf s, .inf t => if s = t then .inf s else .nan
  | .inf s, .fin .. => .inf s
  | .fin .., .inf s => .inf s
  | .fin s m e _, .fin t n f _ =>
    if m = 0 && n = 0 then .fin (if s = t then s else rdn) 0 0 false else
    let g := min e f
    let a : Int := (if s then -1 else 1) * ((m <<< (e - g).toNat : Nat) : Int)
    let b : Int := (if t then -1 else 1) * ((n <<< (f - g).toNat : Nat) : Int)
    if a + b = 0 then .fin rdn 0 0 false else .fin (a + b < 0) (a + b).natAbs g false

/-- Sign of the comparison of two values that are no NaN: −1, 0 or 1 (−0 equal to +0). -/
def Num.cmp (x y : Num) : Int :=
  match x, y with
  | .inf s, .inf t => if s = t then 0 else if s then -1 else 1
  | .inf s, _ => if s then -1 else 1
  | _, .inf s => if s then 1 else -1
  | .fin s m e _, .fin t n f _ =>
    let g := min e f
    let a : Int := (if s then -1 else 1) * ((m <<< (e - g).toNat : Nat) : Int)
    let b : Int := (if t then -1 else 1) * ((n <<< (f - g).toNat : Nat) : Int)
    if a < b then -1 else if a = b then 0 else 1
  | .nan, _ | _, .nan => 0

/-- 03 R51, R54, R55: the value of a code. -/
def val (g : Fmt) (c : Nat) : Num :=
  match g with
  | .int8 => .ofInt (sext c 8)
  | .int32 => .ofInt (sext c 32)
  | .uint32 => .fin false (c % 2 ^ 32) 0 false
  | .ki | .k4x => .ofInt (sext c 4)
  | .e8m0 => if c % 256 = 255 then .nan else .fin false 1 ((c % 256 : Nat) - 127) false
  | .f32 | .f16 | .bf16 | .e4m3 | .e5m2 | .e2m1 | .f64 =>
    match g.float? with
    | none => .nan
    | some p =>
      let s := c.testBit (p.width - 1)
      let mag := c % 2 ^ (p.width - 1)
      if p.inf = some mag then .inf s
      else if p.maxCode < mag then .nan
      else
        let ef := mag / 2 ^ p.frac
        let f := mag % 2 ^ p.frac
        if ef = 0 then .fin s f (1 - (p.bias : Int) - p.frac) false
        else .fin s (2 ^ p.frac + f) ((ef : Int) - p.bias - p.frac) false

/-! Flags of FSTAT (03 R68). -/
def NV : Nat := 1
def DZ : Nat := 2
def OF : Nat := 4
def UF : Nat := 8
def NX : Nat := 16
def SA : Nat := 32

/-- floor(log2) of a positive finite value. -/
def expOf (m : Nat) (e : Int) : Int := e + (bitLen m : Int) - 1

/-- A magnitude (m + δ) × 2^e cut at the quantum 2^q: whole part, and the part below as r over 2^sh, with its δ. -/
def cutAt (m : Nat) (e q : Int) : Nat × Nat × Nat :=
  if q ≤ e then (m <<< (e - q).toNat, 0, 0)
  else
    let sh := (q - e).toNat
    (m >>> sh, m % 2 ^ sh, sh)

/-- 03 R62: is the upper magnitude taken? `n` is the lower magnitude, r over 2^sh (plus δ) the part below. -/
def roundsUp (mode : Nat) (neg : Bool) (n r sh : Nat) (sticky : Bool) (srs : Word) : Bool :=
  if r = 0 && !sticky then false else
  match mode with
  | 0 => 2 ^ sh < 2 * r || (2 * r == 2 ^ sh && (sticky || n % 2 == 1))
  | 1 => false
  | 2 => !neg
  | 3 => neg
  | _ =>
    -- the threshold is floor((x − lo) / (hi − lo) × 2^32) in value; for a negative x the lower value is the upper magnitude
    if neg then ((2 ^ sh - r) * 2 ^ 32 - (if sticky then 1 else 0)) / 2 ^ sh ≤ srs.toNat
    else srs.toNat < r * 2 ^ 32 / 2 ^ sh

/-- The result of a rounding: the code and the flags of FSTAT it raises. -/
structure Rounded where
  code : Nat
  flags : Nat
deriving DecidableEq, Repr, Inhabited

/-- A magnitude code with its sign in a floating format. -/
def signed (p : FloatP) (neg : Bool) (mag : Nat) : Nat := if neg then mag + 2 ^ (p.width - 1) else mag

/-- 03 R62, R63, R66, R68 for a floating format. -/
def rndFloat (p : FloatP) (x : Num) (mode : Nat) (sat : Bool) (srs : Word) : Rounded :=
  match x with
  | .nan => match p.nan with
    | some c => { code := c, flags := 0 }
    | none => { code := 0, flags := NV }
  | .inf s => match p.inf, sat with
    | some c, false => { code := signed p s c, flags := 0 }
    | _, _ => { code := signed p s p.maxCode, flags := SA }
  | .fin s m e st =>
    if m = 0 && !st then { code := signed p s 0, flags := 0 } else
    let emin : Int := 1 - (p.bias : Int) - p.frac
    let emax : Int := (p.maxCode / 2 ^ p.frac : Nat) - (p.bias : Int) - p.frac
    let q := min emax (max emin (expOf m e - p.frac))
    let (n, r, sh) := cutAt m e q
    let exact := r = 0 && !st
    let n' := if roundsUp mode s n r sh st srs then n + 1 else n
    let mag := (q - emin).toNat * 2 ^ p.frac + n'
    let tiny := expOf m e < 1 - (p.bias : Int)
    if mag ≤ p.maxCode then
      { code := signed p s mag, flags := if exact then 0 else NX + (if tiny then UF else 0) }
    else
      -- 03 R63; 10 R181
      let toInf := match mode with | 1 => false | 2 => !s | 3 => s | _ => true
      match p.inf, sat, toInf with
      | some c, false, true => { code := signed p s c, flags := OF + NX }
      | _, _, _ => { code := signed p s p.maxCode, flags := OF + NX + SA }

/-- 03 R62, R63, R65, R66, R69 for an integer format: only NV and SA. -/
def rndInt (lo hi : Int) (width : Nat) (x : Num) (mode : Nat) (srs : Word) : Rounded :=
  match x with
  | .nan => { code := 0, flags := NV }
  | .inf s => { code := ((if s then lo else hi) % (2 ^ width : Nat)).toNat, flags := NV + SA }
  | .fin s m e st =>
    let (n, r, sh) := cutAt m e 0
    let n' := if roundsUp mode s n r sh st srs then n + 1 else n
    let y : Int := if s then -(n' : Int) else n'
    let z := clamp y lo hi
    { code := (z % (2 ^ width : Nat)).toNat, flags := if z = y then 0 else SA }

/-- 03 R67: conversion into E8M0. -/
def rndE8m0 (x : Num) (mode : Nat) (srs : Word) : Rounded :=
  match x with
  | .nan => { code := 0xFF, flags := 0 }
  | .inf s => if s then { code := 0xFF, flags := NV } else { code := 0xFE, flags := SA }
  | .fin s m e st =>
    if m = 0 then { code := 0, flags := 0 } else
    let b := bitLen m - 1
    let k := expOf m e
    let r := m % 2 ^ b
    let up := if r = 0 && !st then false else match mode with
      | 0 => 2 ^ b < 2 * r || (2 * r == 2 ^ b && (st || (k + 127) % 2 != 0))
      | 1 => false | 2 => true | 3 => false
      | _ => srs.toNat < r * 2 ^ 32 / 2 ^ b
    let k' := if up then k + 1 else k
    if k' < -127 then { code := 0, flags := 0 }
    else if s then { code := 0xFF, flags := NV }
    else if 127 < k' then { code := 0xFE, flags := SA }
    else { code := (k' + 127).toNat, flags := 0 }

/-- 03 R62: `rnd(x, g, m, sat)` with the state of R64 as it stands after its advance. -/
def rnd (x : Num) (g : Fmt) (mode : Nat) (sat : Bool) (srs : Word) : Rounded :=
  match g with
  | .e8m0 => rndE8m0 x mode srs
  | .int8 | .int32 | .uint32 | .ki | .k4x =>
    match g.range? with
    | some (lo, hi) => rndInt lo hi g.width x mode srs
    | none => default
  | .f32 | .f16 | .bf16 | .e4m3 | .e5m2 | .e2m1 | .f64 =>
    match g.float? with
    | some p => rndFloat p x mode sat srs
    | none => default

/-- 03 R64: the state after the advances of a `rnd`. -/
def advance (mode : Nat) (srs : Word) : Word := if mode = 4 then xs32 srs else srs

/-- `rnd` with its advance: the result and the state it leaves. -/
def rndS (x : Num) (g : Fmt) (mode : Nat) (sat : Bool) (srs : Word) : Rounded × Word :=
  (rnd x g mode sat (advance mode srs), advance mode srs)

/-- `rnd(x, FP32, RNE, false)` as a code: the sums of checksums and matrix steps (03 R71, R74). -/
def rndF32 (x : Num) : Word := wn (rnd x .f32 0 false 0).code

/-! K4X (03 R56-R58). -/

/-- 03 R56: the four values of a quad, or none where it is ill-formed. -/
def k4xQuad (h : Nat) : Option (List Num) :=
  let q (i : Nat) := h / 16 ^ i % 16
  let esc (i : Nat) := q i == 8
  let small (i : Nat) := Num.ofInt (sext (q i) 4)
  let zero := Num.ofInt 0
  if esc 0 && esc 3 then none
  else if esc 0 || esc 3 then
    let c := 16 * q 2 + q 1
    if c == 0x7F || c == 0xFF then none
    else if esc 0 then some [val .e4m3 c, zero, zero, small 3]
    else some [small 0, zero, zero, val .e4m3 c]
  else if esc 1 || esc 2 then none
  else some [small 0, small 1, small 2, small 3]

/-- Is the magnitude of a value above `n`? A NaN is not. -/
def bigger (x : Num) (n : Nat) : Bool :=
  match x with | .nan => false | _ => x.abs.cmp (.ofInt n) == 1

/-- 03 R58: `k4xpack`: quad, flags and the state after the four steps under RS. -/
def k4xPack (v : List Num) (mode : Nat) (srs : Word) : Rounded × Word :=
  let x (i : Nat) := v.getD i Num.zero
  let s1 := advance mode srs
  let s2 := advance mode s1
  let s3 := advance mode s2
  let s4 := advance mode s3
  let big0 := bigger (x 0) 7
  let big3 := bigger (x 3) 7
  let (big0, big3) :=
    if big0 && big3 then
      if (x 3).abs.cmp (x 0).abs == 1 then (false, true) else (true, false)
    else (big0, big3)
  let k0 := rnd (x 0) .ki mode true s1
  let k1 := rnd (x 1) .ki mode true s2
  let k2 := rnd (x 2) .ki mode true s3
  let k3 := rnd (x 3) .ki mode true s4
  let only (f m : Nat) := f &&& m
  let nans := if v.any Num.isNan then NV else 0
  let infKI (skip : Nat) := if (List.range 4).any (fun i => i != skip && (match x i with | .inf _ => true | _ => false))
    then NV else 0
  let lost := if k1.code != 0 || k2.code != 0 then SA else 0
  if big0 then
    let c := rnd (x 0) .e4m3 mode true s1
    ({ code := 8 + 16 * (c.code % 16) + 256 * (c.code / 16) + 4096 * k3.code,
       flags := nans ||| infKI 0 ||| only k3.flags SA ||| only c.flags SA ||| lost }, s4)
  else if big3 then
    let c := rnd (x 3) .e4m3 mode true s4
    ({ code := k0.code + 16 * (c.code % 16) + 256 * (c.code / 16) + 4096 * 8,
       flags := nans ||| infKI 3 ||| only k0.flags SA ||| only c.flags SA ||| lost }, s4)
  else
    ({ code := k0.code + 16 * k1.code + 256 * k2.code + 4096 * k3.code,
       flags := nans ||| infKI 4 ||| only (k0.flags ||| k1.flags ||| k2.flags ||| k3.flags) SA }, s4)

/-! Fixed-point helpers of the functions of 09 R164: 320 bits below the binary point, of which the low 64 absorb the
truncation of the series (log 10). -/

/-- Bits below the binary point. -/
def fxBits : Nat := 320
/-- Σ z^(2k+1) / (2k+1) from term `k`, with `p` the current power of z and z2 its square, by fuel. -/
def atanhAux (z2 : Nat) : Nat → Nat → Nat → Nat → Nat
  | 0, _, _, acc => acc
  | n + 1, k, p, acc => atanhAux z2 n (k + 1) (p * z2 / 2 ^ fxBits) (acc + p / (2 * k + 1))
/-- atanh of a fixed-point number of at most 1/3. -/
def fxAtanh (z : Nat) : Nat := atanhAux (z * z / 2 ^ fxBits) 110 0 z 0
/-- ln 2. -/
def fxLn2 : Nat := 2 * fxAtanh (2 ^ fxBits / 3)
/-- Σ t^k / k! from term `k`, by fuel. -/
def expAux (t : Nat) : Nat → Nat → Nat → Nat → Nat
  | 0, _, _, acc => acc
  | n + 1, k, p, acc => expAux t n (k + 1) (p * t / 2 ^ fxBits / (k + 1)) (acc + p)
/-- 2^f of a fixed-point f in [0, 1). -/
def fxExp2 (f : Nat) : Nat := expAux (f * fxLn2 / 2 ^ fxBits) 90 0 (2 ^ fxBits) 0
/-- log2 of a fixed-point m in [1, 2). -/
def fxLog2 (m : Nat) : Nat :=
  2 * fxAtanh ((m - 2 ^ fxBits) * 2 ^ fxBits / (m + 2 ^ fxBits)) * 2 ^ fxBits / fxLn2

/-- The value between two fixed-point numbers that agree but for their low 64 bits. -/
def fxNum (neg : Bool) (x : Nat) (e : Int) : Num := .fin neg (x / 2 ^ 64) (e - fxBits + 64) true

/-- An exact quotient of naturals times a power of two, cut at 200 bits. -/
def quotient (neg : Bool) (a b : Nat) (e : Int) : Num :=
  let k := 200 + bitLen b
  .fin neg (a * 2 ^ k / b) (e - k) (a * 2 ^ k % b != 0)
/-- The square root of m × 2^e, e even, cut at 200 bits. -/
def rootOf (m : Nat) (e : Int) : Num :=
  let s := isqrt (m * 2 ^ 400)
  .fin false s (e / 2 - 200) (s * s != m * 2 ^ 400)
/-- m × 2^e with an even exponent. -/
def evenExp (m : Nat) (e : Int) : Nat × Int := if e % 2 = 0 then (m, e) else (2 * m, e - 1)

/-- 09 R164 `frcp`: value and flags. -/
def recip (x : Num) : Num × Nat :=
  match x with
  | .nan => (.nan, 0)
  | .inf s => (.fin s 0 0 false, 0)
  | .fin s m e _ => if m = 0 then (.inf s, DZ) else (quotient s 1 m (-e), 0)
/-- 09 R164 `fsqrt`. -/
def sqrtOf (x : Num) : Num × Nat :=
  match x with
  | .nan => (.nan, 0)
  | .inf s => if s then (.nan, NV) else (.inf false, 0)
  | .fin s m e _ =>
    if m = 0 then (x, 0) else if s then (.nan, NV) else (let (m', e') := evenExp m e; rootOf m' e', 0)
/-- 09 R164 `frsq`. -/
def rsqrtOf (x : Num) : Num × Nat :=
  match x with
  | .nan => (.nan, 0)
  | .inf s => if s then (.nan, NV) else (.fin false 0 0 false, 0)
  | .fin s m e _ =>
    if m = 0 then (.inf s, DZ) else if s then (.nan, NV) else
    let (m', e') := evenExp m e
    let k := 200 + bitLen m'
    let r := isqrt (2 ^ (2 * k) / m')
    (.fin false r (-(e' / 2) - k) (r * r * m' != 2 ^ (2 * k)), 0)
/-- 09 R164 `fexp2`. -/
def exp2Of (x : Num) : Num × Nat :=
  match x with
  | .nan => (.nan, 0)
  | .inf s => (if s then .fin false 0 0 false else .inf false, 0)
  | .fin s m e _ =>
    if m = 0 then (.fin false 1 0 false, 0)
    else if 12 ≤ expOf m e then (.fin false 1 (if s then -5000 else 5000) false, 0)
    else
      let fx : Int := (if s then -1 else 1) * ((m * 2 ^ fxBits : Nat) : Int)
      let v : Int := if 0 ≤ e then fx * ((2 ^ e.toNat : Nat) : Int) else Int.fdiv fx ((2 ^ (-e).toNat : Nat) : Int)
      let i := Int.fdiv v ((2 ^ fxBits : Nat) : Int)
      let f := (v - i * ((2 ^ fxBits : Nat) : Int)).toNat
      if f = 0 then (.fin false 1 i false, 0) else (fxNum false (fxExp2 f) i, 0)
/-- 09 R164 `flog2`. -/
def log2Of (x : Num) : Num × Nat :=
  match x with
  | .nan => (.nan, 0)
  | .inf s => if s then (.nan, NV) else (.inf false, 0)
  | .fin s m e _ =>
    if m = 0 then (.inf true, DZ) else if s then (.nan, NV) else
    let k := expOf m e
    let b := bitLen m - 1
    if m = 2 ^ b then (.ofInt k, 0)
    else
      let v : Int := k * ((2 ^ fxBits : Nat) : Int) + ((fxLog2 (m * 2 ^ (fxBits - b)) : Nat) : Int)
      (fxNum (v < 0) v.natAbs 0, 0)

/-! Inline constants (05 R92). -/

/-- π to 50 decimals, times 10^50. -/
def piDec : Nat := 314159265358979323846264338327950288419716939937510
/-- The value of a positive floating constant by code − 192; `N` is the smallest normal value of the format. -/
def constVal (i : Nat) (g : Fmt) : Num :=
  let sixteenths := [0, 1, 2, 4, 6, 8, 12, 16, 20, 24, 32, 40, 48, 64, 80, 96, 112, 128, 160, 256, 512, 1024, 2048, 7168]
  match i with
  | 24 => .fin false (piDec * 2 ^ 128 / 10 ^ 50) (-128) true
  | 25 => .fin false (10 ^ 50 * 2 ^ 128 / piDec) (-128) true
  | 26 => fxNum false fxLn2 0
  | 27 => fxNum false (2 ^ (2 * fxBits) / fxLn2) 0
  | 28 => rootOf 2 0
  | 29 => .fin false (isqrt (2 ^ 401) ) (-201) true
  | 30 => .inf false
  | 31 => match g.float? with
    | some p => .fin false 1 (1 - (p.bias : Int)) false
    | none => .fin false 1 0 false
  | _ => .fin false (sixteenths.getD i 0) (-4) false

/-- 05 R92: the code that an inline constant of a floating source format reads as. -/
def inlineFloat (c : Nat) (g : Fmt) : Nat :=
  let neg := 224 ≤ c
  let v := constVal (if neg then c - 224 else c - 192) g
  (rnd (if neg then v.neg else v) g 0 false 0).code
/-- 05 R92: an inline constant of an integer source. -/
def inlineInt (c : Nat) : Word := w32 ((c : Int) - 224)

/-! Checksum arithmetic (03 R74, R75). -/

/-- 03 R75: the default tolerance exponent. -/
def tolDefault (g : Fmt) : Nat :=
  match g with
  | .f32 => 16 | .f16 => 12 | .bf16 => 10 | .e4m3 | .e5m2 | .e2m1 | .k4x => 6
  | .int8 | .int32 | .uint32 | .e8m0 | .f64 | .ki => 0

/-- 03 R74: `agree(a, b, m, t)` on FP32 codes. -/
def agree (a b m : Word) (t : Nat) : Bool :=
  match val .f32 a.toNat, val .f32 b.toNat, val .f32 m.toNat with
  | .nan, y, _ => y.isNan
  | _, .nan, _ => false
  | .inf s, y, _ => y == .inf s
  | _, .inf _, _ => false
  | x, y, mm =>
    match mm with
    | .inf _ => true
    | .nan => false
    | .fin _ n e _ => ((Num.add false x y.neg).abs.cmp (.fin false n (e - t) false)) ≤ 0

end Sys2Proof.Machine
end

