-- ==== Sys2Proof/Machine/Types.lean ====
section
/-! DEFINITION. The parts of the state: threads, groups, teams, cores, clauses and accesses in progress (01, 05, 07, 11, 13,
15, 17, 21, 23, 25). Key of a team: 16 × core + slot. Times are values of DT. -/

namespace Sys2Proof.Machine

/-! Threads (01 R14, R23; 13 R229-R235). -/

/-- What a Waiting thread waits for (11 R200; 13 R226; 15 R250; 17 R286). -/
inductive WaitOn where
  /-- the release of the phase of a team barrier in which it arrived (11 R203) -/
  | bar (n : Nat) (phase : Bool)
  /-- PHASE of a transaction barrier to differ from a parity (11 R207) -/
  | tb (k : Nat) (par : Bool)
  /-- a counter to reach a target (11 R210) -/
  | cc (va : Nat) (target : Dword) (scope : Nat)
  /-- a regang hold (13 R226) -/
  | regang (key deadline : Nat)
  /-- a reservation of the tile store (15 R250) -/
  | rsv (k : Nat)
deriving DecidableEq, Repr, Inhabited

/-- A thread's state of 01 R23; Parked is its group's, Halted stands above this one. -/
inductive TState where
  | ready
  /-- the conditions still to be met, none where it is held with its integer only (17 R286), and since when -/
  | waiting (cs : List WaitOn) (since : Nat)
  | exited
deriving DecidableEq, Repr, Inhabited

/-- A thread (01 R14; 13 R235). Lane registers by physical slot (01 R34); an unlisted one holds 0. -/
structure Thread where
  pc : Nat := 0
  wb : Nat := 0
  rb : Nat := 0
  cd : Nat := 0
  v : Tbl PWord := []
  p : BitVec 8 := 0
  ppois : BitVec 8 := 0
  fstat : Word := 0
  srs : Word := 1
  st : TState := .ready
  halted : Bool := false
  haltPend : Bool := false
  step : Bool := false
  h : Bool := false
  dbg : Bool := false
  skip : Bool := false
  derr : Bool := false
  xpc : PDword := { val := 0, poison := false }
  xcause : Word := 0
  xaddr : Dword := 0
  xdet : PWord := { val := 0, poison := false }
  encdet : Word := 0
  smpltag : Word := 0
  smplNext : Bool := false
  /-- link records by depth: the four most recent in the core (13 R222) -/
  links : Tbl PDword := []
  /-- DT of the last issue (01 R28) -/
  lastIssue : Nat := 0
  /-- the yield hint's mark: the number of the clause that set it, 0 for none (05 R81) -/
  yielded : Nat := 0
  /-- clause slots of its slice that went to others since it last issued while Ready (01 R29) -/
  passed : Nat := 0
  /-- header address and words of the clause it stands at, once fetched (23 R362; 24 R378) -/
  fetched : Option (Nat × List Word) := none
  /-- addresses of the spill and link words that were discarded: their refill gives poison (23 R355) -/
  lost : List Nat := []
  /-- what holds it at step 3 of 05 R80, and since when: watchdog clock, kind and object. Kind 0: its wait mask or a slot limit; 4: a
  rendezvous (15 R268); 6: q6, q7 or a full queue, 16: another queue (11 R201). -/
  held : List (Nat × Nat × Nat) := []
deriving DecidableEq, Repr, Inhabited

/-! Checksums, ranges and staging (15). -/

/-- Components of a row or column (03 R73; 15 R255). -/
structure Comp where
  stale : Bool := false
  poison : Bool := false
  exact : Word := 0
  fp : Word := 0
  mag : Word := 0
  scale : Word := 0
deriving DecidableEq, Repr, Inhabited

/-- Rows and columns of a tile or a quarter. -/
structure Sidecar where
  rows : Tbl Comp := []
  cols : Tbl Comp := []
deriving DecidableEq, Repr, Inhabited

/-- A range of the tile store (15 R249-R255): granules, bytes, poisoned half-bytes, record, sidecar. -/
structure Range where
  gran : Nat := 0
  bytes : Mem := []
  poison : List Nat := []
  record : Option Dword := none
  side : Sidecar := {}
  /-- its release waits for copies in flight (15 R251) -/ rel : Bool := false
deriving DecidableEq, Repr, Inhabited

/-- State of a fragment sidecar (15 R264). -/
inductive FragSt where
  | empty | fresh | stale
deriving DecidableEq, Repr, Inhabited

/-- A fragment sidecar (15 R264). -/
structure Frag where
  st : FragSt := .empty
  base : Nat := 0
  fmt : Nat := 0
  sc : Bool := false
  len : Nat := 16
  ks : Nat := 8
  quarter : Nat := 0
  side : Sidecar := {}
deriving DecidableEq, Repr, Inhabited

/-- The formats and block lengths of a run (15 R275): A's and B's. -/
structure RunFmt where
  fa : Nat
  la : Nat
  fb : Nat
  lb : Nat
deriving DecidableEq, Repr, Inhabited

/-- The staging accumulator with its open-block state and predictions (15 R271); unlisted values are +0. -/
structure Staging where
  acc : Tbl PWord := []
  opn : Tbl Num := []
  kpos : Nat := 0
  prow : Tbl PWord := []
  pcol : Tbl PWord := []
  mrow : Tbl PWord := []
  mcol : Tbl PWord := []
  run : Option RunFmt := none
deriving DecidableEq, Repr, Inhabited

/-- A contribution on its way to an accumulator (15 R275), or a close (R276). -/
structure Contrib where
  st : Staging := {}
  index : Option Nat := none
deriving DecidableEq, Repr, Inhabited

/-! Groups and teams. -/

/-- What a park holds (23 R365). -/
inductive ParkKind where
  /-- accesses held in the core: those whose stage names the park, and the reads of link records of `returns` -/ | access
  /-- a clause held at its header: its fetch is parked -/ | fetch
  /-- a team watchdog (causes 49 and 50) -/ | watchdog
deriving DecidableEq, Repr, Inhabited

/-- A parked page (23 R365): cause, address and lanes of its record. -/
structure PPage where
  cause : Nat
  va : Nat
  lanes : List Nat
deriving DecidableEq, Repr, Inhabited

/-- A park of a group (23 R365). -/
structure Park where
  id : Nat
  kind : ParkKind
  pages : List PPage := []
deriving DecidableEq, Repr, Inhabited

/-! Clauses in progress. -/

/-- A clause a candidate is issuing (05 R80): its threads, those that take its effects, the words left, the latches of
each thread (b0 first; none is an empty entry) and what happens after its last word. -/
structure Issue where
  /-- its place in grant order within its group, eight times the DT of the grant and its first slice (01 R31): accesses name it -/
  id : Nat := 0
  tk : Nat
  g : Nat
  pc : Nat
  header : Header
  cand : List Nat
  /-- threads whose clause predicate is true and that still take the clause's words -/
  live : List Nat
  widx : Nat := 1
  words : List Word
  lat : Tbl (List (Option PWord)) := []
  slat : List (Option PWord) := []
  /-- threads whose PC a word has set -/
  moved : List Nat := []
  /-- traps to deliver after every word (brk, trap, watchpoint): cause, xaddr, xdet, widx (13 R231; 27 R409) -/
  after : Tbl (Nat × Dword × PWord × Nat) := []
  waits : Tbl (List WaitOn) := []
  regang : Tbl Nat := []
  /-- conditions of `waits` that have been met since -/ met : List (Nat × WaitOn) := []
deriving DecidableEq, Repr, Inhabited

/-- A `ret` or `tret` of threads whose link records are parked (13 R222; 01 R37): the clause, at the word; the threads that wait (`cand`),
those that return (`live`), and those whose record is parked. -/
structure Return where
  issue : Issue
  tret : Bool
  held : List Nat
deriving DecidableEq, Repr, Inhabited

/-- A group of 32 threads (01 R18, R31; 05 R95; 13 R222; 15 R264-R271; 17 R282, R283). -/
structure Group where
  role : Nat := 0
  /-- resident group slot among the eight of its partition (01 R28; 21 R335) -/ resident : Nat := 0
  ba : Nat := 32
  th : Tbl Thread := []
  s : Tbl PWord := []
  /-- the clause, by its place in grant order, that last wrote a scalar register (01 R31) -/ sLast : Tbl Nat := []
  ws : Tbl Nat := []
  gwctmax : Nat := 0
  spillBase : Nat := 0
  spillSize : Nat := 0
  linkBase : Nat := 0
  linkSize : Nat := 0
  gang : Word := 0
  gseq : Nat := 0
  fs : Tbl Frag := []
  staging : Staging := {}
  /-- limb count L, none when unbound -/
  limbs : Option Nat := none
  cf : Tbl PBool := []
  cw : Tbl PWord := []
  /-- a vfence holds the group (11 R200) -/
  vfence : Bool := false
  parks : List Park := []
  returns : List Return := []
  copyNum : Nat := 0
  /-- lanes stepped whose step has ended, and lanes not stepped (13 R240) -/ stepped : List Nat := []
  notStepped : Word := 0
  /-- words made so far: the model's own count, for a replay's injections (log 31) -/ words : Nat := 0
  retired : Bool := false
deriving DecidableEq, Repr, Inhabited

/-- A team barrier (01 R39). -/
structure Bar where
  roles : Nat := 15
  e : Nat := 0
  a : Nat := 0
  arrived : List Nat := []
  phase : Bool := false
  pend : Nat := 0
  /-- watchdog clock at the first arrival of the phase -/
  since : Nat := 0
deriving DecidableEq, Repr, Inhabited

/-- A write region of a copy (07 R142; 19 R314): the virtual lines of its span, none outside global memory, and the physical lines
that it has been seen to cover. -/
structure Span where
  first : Nat := 0
  count : Nat := 0
  lines : List Nat := []
deriving DecidableEq, Repr, Inhabited

/-- A transaction barrier (11 R205). -/
structure TBar where
  pend : Nat := 0
  phase : Bool := false
  /-- the write regions of the copies that arrived in the phase -/ regions : List Span := []
  overfull : Bool := false
deriving DecidableEq, Repr, Inhabited

/-- The body of a kernel launch card with its header's numbers (19 R301, R302). -/
structure KCard where
  addr : Nat := 0
  cardid : Word := 0
  code : Nat := 0
  gx : Nat := 1
  gy : Nat := 1
  gz : Nat := 1
  hframe : Nat := 0
  tbn : Nat := 0
  wdlog : Nat := 24
  stagger : Nat := 0
  shu : Nat := 0
  /-- group count, budget and entry address of each role -/
  roles : List (Nat × Nat × Nat) := []
  hentry : Nat := 0
  spillArea : Nat := 0
  spillSize : Nat := 0
  linkArea : Nat := 0
  linkSize : Nat := 0
  sets : Nat := 0
deriving DecidableEq, Repr, Inhabited

/-- A team bound to a slot (01 R19, R39; 11 R205, R211; 13 R235; 21 R339). -/
structure Team where
  card : KCard := {}
  /-- its number, which it keeps while it is saved and wherever it is restored -/ uid : Nat := 0
  /-- the launch it belongs to: a key of the launcher's cards -/ launch : Option Nat := none
  /-- DT of its start -/ startDt : Nat := 0
  /-- launcher queue of 13 R241 -/
  queue : Option Nat := none
  launchid : Word := 0
  n : Nat := 0
  x : Word := 0
  y : Word := 0
  z : Word := 0
  ctx : Nat := 0
  tenant : Nat := 0
  prio : Nat := 0
  hentry : Nat := 0
  hframe : Nat := 0
  stepdone : Word := 0
  bars : Tbl Bar := []
  tbn : Nat := 0
  tbs : Tbl TBar := []
  q : Tbl (List PWord) := []
  /-- engine entries for q1 and q5 that wait in the engine for room, with the DT of each -/
  qwait : Tbl (List (Nat × Word)) := []
  /-- engine entries that entered a queue in the replay window: DT, queue, word -/ pushed : List (Nat × Nat × Word) := []
  shSize : Nat := 0
  sh : Mem := []
  shPoison : List Nat := []
  ranges : Tbl Range := []
  /-- DT of the last `tb.expect` or `tb.arrive` on a barrier (11 R208) -/ tbWords : Tbl Nat := []
  wdPeriod : Nat := 2 ^ 24
  /-- ticks the team watchdog has advanced (it stops while a thread is Halted, 13 R239) -/
  wdClock : Nat := 0
  spillSet : Option Nat := none
  groups : Tbl Group := []
  /-- a thread was killed: the team is a failed item (23 R373) -/
  failed : Bool := false
  started : Bool := false
  /-- stop issue: the slot is Draining (21 R341) -/
  drain : Bool := false
deriving DecidableEq, Repr, Inhabited

/-! Slot-assigning instructions and accesses in progress. -/

/-- The operation of an atomic (11 R192). -/
inductive AtomOp where
  | add | min | max | and | or | xor | xchg | cas | fadd | fmin | fmax
deriving DecidableEq, Repr, Inhabited

/-- A class E command on its way out of its core (19 R325-R328; 25 R381). -/
inductive ECmd where
  /-- a card or graph for queue `q` -/ | enq (q addr : Nat) (graph : Bool)
  | collStart (table : Nat)
  | collRearm (table v : Nat)
  | collReady (entry table : Nat)
  | weight (cls w : Nat)
deriving DecidableEq, Repr, Inhabited

/-- The engine item that an access belongs to. -/
inductive Owner where
  | none
  /-- a job of a copy slice: copy, slice and job -/ | copy (cid g job : Nat)
  /-- the completion record of a card, or its counter's add -/ | card (id : Nat) (counter : Bool)
  /-- a graph's counter -/ | graph (id : Nat)
  /-- a write of a copy of a team that was saved since: its card waits for it (07 R141) -/ | left (card : Nat)
  /-- the result of a collective entry, or its counter's add -/ | entry (inst e : Nat) (counter : Bool)
  /-- the bytes of a save record, or an access that the management core performs for it (21 R343, R437) -/ | save (k : Nat)
deriving DecidableEq, Repr, Inhabited

/-- What an access does. -/
inductive AKind where
  | load
  | store
  | atom (op : AtomOp)
  /-- a commit or commit.ord of a staging accumulator (15 R275) -/ | commit (c : Contrib)
  /-- acc.close with E and TOL (15 R276) -/ | close (e tol : Nat)
  /-- an engine write of bytes (07 R141) -/ | engine
  /-- an engine's add of 1 to a completion counter (19 R303) -/ | count
  /-- a prefetched line (13 R244): to the L1, or to the home slice -/ | prefetch (l1 : Bool)
  /-- a line that cwb writes back (13 R244) -/ | writeback
  /-- a fence among the thread's accesses (11 R198): it holds later ones until its waits are met -/ | fence
  /-- a word of spill or link traffic (01 R36) -/ | spill
  /-- an arrival at a team barrier that is not counted yet (11 R204) -/ | arrive (n : Nat)
  /-- an entry of a team queue that is not poppable yet (11 R213) -/ | push (q : Nat) (x : PWord)
  /-- a class E command -/ | command (c : ECmd)
deriving DecidableEq, Repr, Inhabited

/-- Where an access stands. -/
inductive Stage where
  /-- in the core or engine: quarantine, ordering guards (07 R125, R133) -/ | core
  /-- held under a park (11 R196) -/ | parked (id : Nat)
  /-- on its way to a home slice: DT of arrival and ingress port (12 R217) -/ | net (arrive port : Nat)
  /-- performed; revocations not yet confirmed (07 R126) -/ | performed
  /-- its reply is on its way back: DT of arrival -/ | back (arrive : Nat)
  /-- retracted into a save record, and kept in the core that issued it (21 R437) -/ | retracted
deriving DecidableEq, Repr, Inhabited

/-- A revocation on its way: to a core, applied there or not, DT of arrival of the message or of its confirmation. -/
structure Revoke where
  core : Nat
  line : Nat := 0
  /-- place in the order in which the slices' messages left -/ perf : Nat := 0
  words : List Nat
  applied : Bool
  arrive : Nat
deriving DecidableEq, Repr, Inhabited

/-- What an engine's records name (23 R371): the launch of a team with its index, or a card; `uid` is the team's number. -/
structure Who where
  uid : Nat := 0
  launchid : Word := 0
  x : Word := 0
  y : Word := 0
  z : Word := 0
deriving DecidableEq, Repr, Inhabited

/-- The key of no team. -/
def noTeam : Nat := 2 ^ 19
/-- An access to memory that is not finished (07 R122-R137; 11 R189-R196). -/
structure Access where
  /-- source number of 27 R397 -/ src : Nat
  kind : AKind
  space : Space := .g
  tk : Nat := noTeam
  g : Nat := 0
  /-- threads in whose program order it stands: one, or all that participate in a once-per-candidate access -/
  lanes : List Nat := []
  /-- number of the clause issue that made it -/ clause : Nat := 0
  ctx : Nat := 0
  tenant : Nat := 0
  va : Nat := 0
  /-- key of its first byte; an offset in shared memory -/ key : Nat := 0
  width : Nat := 4
  data : List Byte := []
  /-- poison marks of the words of `data` -/ pois : List Bool := []
  cmp : List Byte := []
  order : Nat := 0
  scope : Nat := 0
  /-- destination code, and the window base at issue -/ dst : Option Nat := none
  wb : Nat := 0
  op : Option Nat := none
  /-- the engine item it belongs to, and what its records name -/ owner : Owner := .none
  who : Who := {}
  /-- more bytes that an engine write puts into its line in the same step: key, bytes, poison marks -/
  more : List (Nat × List Byte × List Bool) := []
  pc : Nat := 0
  /-- DT from which its quarantine counts -/ dt : Nat := 0
  /-- DT of issue of a sampled access (27 R407) -/ born : Nat := 0
  stage : Stage := .core
  /-- a store or atomic that its core's loads see: its program-order holds are over -/ entered : Bool := false
  /-- its place among those its core let enter -/ enterNo : Nat := 0
  /-- bytes a read took, and whether one of their words was poisoned -/ value : List Byte := []
  vpois : Bool := false
  /-- a fill: the line's words and the words the core owns -/ fill : List PWord := []
  own : List Nat := []
  gwct : Nat := 0
  le : Nat := 0
  /-- drop the fill (08 R145) -/ drop : Bool := false
  revs : List Revoke := []
  /-- place in the order in which the slices' messages left -/ perf : Nat := 0
  cid : Nat := 0
  sampled : Bool := false
  tag : Word := 0
  /-- a limb access: its integer -/ limb : Option Nat := none
  recoverable : Bool := false
  /-- cause that makes its result poison, 0 for none -/ cause : Nat := 0
  /-- a limb whose value has returned before the others of its integer (17 R297) -/ returned : Bool := false
  /-- a commit or close: the keys of the tile's four pages -/ pages : List Nat := []
  /-- belongs to a save record: its acknowledgement is late (21 R341), and SAVEDT of the record -/ save : Option Nat := none
  saveDt : Nat := 0
  /-- the entry that it left in the core from which it was retracted (21 R437) -/ ghost : Option Nat := none
deriving DecidableEq, Repr, Inhabited

/-- A slot-assigning instruction that has not reached its completion point (05 R95, R97). -/
structure Op where
  tk : Nat
  g : Nat
  slot : Nat
  /-- threads and the registers that are pending for them -/
  pend : List (Nat × List Nat) := []
  /-- parts still to finish -/
  left : Nat := 0
  /-- a cinv: thread, first and last line of its range; later loads of the thread to them wait (13 R244) -/
  cinv : List (Nat × Nat × Nat) := []
deriving DecidableEq, Repr, Inhabited

/-! Cores. -/

/-- A cached translation (23 R357): context, level, virtual page of that size, table entry. -/
structure TlbE where
  ctx : Nat
  level : Nat
  page : Nat
  pte : Dword
deriving DecidableEq, Repr, Inhabited

/-- An instruction-cache line: context, virtual line, its 32 words. -/
structure ICLine where
  ctx : Nat
  line : Nat
  words : List PWord
deriving DecidableEq, Repr, Inhabited

/-- An L1 copy (07 R123, R127): lease end, 32 words, words owned. -/
structure L1Line where
  le : Nat
  words : List PWord
  /-- words not dropped by a self-invalidation -/ valid : List Nat := []
  owned : List Nat := []
deriving DecidableEq, Repr, Inhabited

/-- A PC comparator (13 R241). -/
structure Pcmp where
  addr : Nat
  filter : Word
  ctx : Nat
deriving DecidableEq, Repr, Inhabited

/-- A watchpoint (13 R242). -/
structure Wpt where
  addr : Nat
  ctl : Word
  ctx : Nat
deriving DecidableEq, Repr, Inhabited

/-- A debug mailbox record (27 R410). -/
structure MRec where
  kind : Nat
  /-- number by which STRIKE_QUARANTINE_EXPIRY names it -/ id : Nat := 0
  g : Nat := 0
  core : Nat := 0
  launchid : Word := 0
  x : Word := 0
  y : Word := 0
  z : Word := 0
  mask : Word := 0
  mask2 : Word := 0
  value : Word := 0
  pc : Nat := 0
  dt : Nat := 0
  ctx : Nat := 0
deriving DecidableEq, Repr, Inhabited
/-- Its 64 bytes (27 R410). -/
def MRec.bytes (r : MRec) : List Byte :=
  leBytes 1 r.kind ++ leBytes 1 r.g ++ leBytes 2 r.core ++ leBytes 4 r.launchid.toNat ++ leBytes 4 r.x.toNat ++ leBytes 4 r.y.toNat ++
    leBytes 4 r.z.toNat ++ leBytes 4 r.mask.toNat ++ leBytes 4 r.mask2.toNat ++ leBytes 4 r.value.toNat ++ leBytes 8 r.pc ++ leBytes 8 r.dt ++
    leBytes 2 r.ctx ++ leBytes 14 0

/-- States of a team slot (21 R340). -/
inductive SlotSt where
  | free | armed | starting | running | draining | saving | ending
deriving DecidableEq, Repr, Inhabited

/-- A team slot (21 R337, R340). `status`: 0 none, 1 refused, 2 lanes and threads, 3 groups, 4 shared memory,
5 transaction barriers, 6 spill sets, 7 tile store. -/
structure Slot where
  st : SlotSt := .free
  w0 : Dword := 0
  w1 : Dword := 0
  w2 : Dword := 0
  w3 : Dword := 0
  /-- teams of the range already started -/ next : Nat := 0
  status : Nat := 0
  /-- admission is to be tested (again): a team of the core has retired or been saved, or has released a range (21 R340; 22 R350) -/
  retest : Bool := true
  card : KCard := {}
  /-- the launch of its record: a key of the launcher's cards -/ launch : Option Nat := none
  drainAt : Nat := 0
  /-- where the save record goes -/ area : Nat := 0
  /-- commands that wait for the first clause: pre-empt with its area, or kill -/ pend : List (Option Nat) := []
  /-- save record to restore, if any -/ save : Option Nat := none
  /-- teams not started, reported to the management core: first and count -/ report : Option (Nat × Nat) := none
  /-- save record being written, then reported -/ saved : Option Nat := none
deriving DecidableEq, Repr, Inhabited

/-- A waiting reservation (15 R250). -/
structure Rsv where
  tk : Nat
  g : Nat
  k : Nat
  n : Nat
  dt : Nat
  threads : List Nat
  pc : Nat
  widx : Nat
deriving DecidableEq, Repr, Inhabited

/-- A deposit in the rendezvous latch (15 R268): one mma word of a group. -/
structure Deposit where
  tk : Nat
  g : Nat
  seq : Nat
  z : Bool
  vb : Nat
  step : Nat
  k : Nat
  cand : List Nat
  pc : Nat
  widx : Nat
  /-- its group has reached the word, with every live thread or not -/ ready : Bool := false
  whole : Bool := true
  /-- the joint step has started -/ started : Bool := false
deriving DecidableEq, Repr, Inhabited

/-- Sparing and faults of a slice of four lanes (25 R387-R390); times in DT. -/
structure SliceSt where
  splane : Nat := 0
  spused : Bool := false
  lost : Bool := false
  /-- lane and DT of residue faults -/ residue : List (Nat × Nat) := []
  rbcnt : Nat := 0
  /-- DT up to which a rebuild stops it -/ stop : Nat := 0
  /-- DT of the last clause slot it granted (01 R28) -/ granted : Option Nat := none
  /-- lane and DT of rebuilds -/ rebuilds : List (Nat × Nat) := []
  /-- lanes declared failed and not yet taken over -/ failing : List Nat := []
deriving DecidableEq, Repr, Inhabited

/-- A core. -/
structure Core where
  dentry : Dword := 0
  smplctl : Word := 0
  mbox : List MRec := []
  mboxOvf : Nat := 0
  /-- mailbox records in the quarantine -/ mboxOut : List MRec := []
  cmps : Tbl Pcmp := []
  wpts : Tbl Wpt := []
  slots : Tbl Slot := []
  rsv : List Rsv := []
  latch : List Deposit := []
  /-- steps queued per partition's array: DT at which each ends -/ arrays : Tbl (List Nat) := []
  l1 : Tbl L1Line := []
  lastPage : Tbl TlbE := []
  tlb : List TlbE := []
  icache : List ICLine := []
  slices : Tbl SliceSt := []
  /-- DT up to which a replay stops issue (25 R380) -/ stop : Nat := 0
  /-- DT of the last word that wrote its tile store (15 R262) -/ tsWrote : Option Nat := none
deriving DecidableEq, Repr, Inhabited

end Sys2Proof.Machine
end

