-- ==== Sys2Proof/Machine/Devices.lean ====
section
/-! DEFINITION. The parts of the state outside the cores: lines and accumulators at home slices, cards, copies and
collectives (19), contexts, tenants and faults (23, 29), the recorder (27), save records (21) and repair (25). -/

namespace Sys2Proof.Machine

/-! Home slices. -/

/-- What a home slice keeps for a line beside its data (07 R121, R123, R126, R127; 12 R217). -/
structure Line where
  /-- held in the L2 -/ present : Bool := false
  /-- held as a tag with the zero flag (07 R121) -/ zero : Bool := false
  dirty : Bool := false
  maxLE : Nat := 0
  /-- owning core of each word -/ owners : Tbl Nat := []
  /-- DT of the last write performed -/ lastWrite : Option Nat := none
  /-- open accumulator of 15 R274 -/ acc : Option Nat := none
deriving DecidableEq, Repr, Inhabited

/-- An open accumulator (15 R274-R277), by the physical line of its first byte. Values by index 64 i + n. -/
structure Accum where
  ctx : Nat := 0
  /-- keys of its four pages -/ pages : List Nat := []
  tile : Tbl PWord := []
  prow : Tbl PWord := []
  pcol : Tbl PWord := []
  mrow : Tbl PWord := []
  mcol : Tbl PWord := []
  /-- arrival (false) or ordered (true) -/ ordered : Option Bool := none
  merged : Nat := 0
  indices : List Nat := []
  /-- access ids waiting in the contribution buffer -/ waiting : List Nat := []
  /-- the close: E, TOL and its access -/ close : Option (Nat × Nat × Nat) := none
  bad : Bool := false
deriving DecidableEq, Repr, Inhabited

/-! Cards, graphs and copies (19). -/

/-- States of a card (19 R306). -/
inductive CardSt where
  | queued | waiting | ready | running | refused | cancelled | ended
deriving DecidableEq, Repr, Inhabited

/-- A copy descriptor (19 R310). -/
structure Desc where
  src : Nat := 0
  dst : Nat := 0
  nx : Nat := 1
  ny : Nat := 1
  nz : Nat := 1
  ssy : Int := 0
  ssz : Int := 0
  dsy : Int := 0
  dsz : Int := 0
  limx : Nat := 0
  limy : Nat := 0
  limz : Nat := 0
  fill : Nat := 0
  size : Nat := 1
  sspace : Nat := 0
  dspace : Nat := 0
  block : Bool := false
  tclass : Nat := 0
  cnt : Nat := 0
  bad : Bool := false
deriving DecidableEq, Repr, Inhabited

/-- What a card does. -/
inductive CardBody where
  | kernel (k : KCard)
  | copy (d : Desc)
  | collective (table : Nat)
deriving DecidableEq, Repr, Inhabited

/-- A launch: an enqueued card, or one bound without a queue (19 R301-R306). -/
structure Card where
  addr : Nat := 0
  ctx : Nat := 0
  tenant : Nat := 0
  /-- launcher queue, 0 for a card bound without one -/ queue : Nat := 0
  cardid : Word := 0
  /-- counter, 0 for none -/ cnt : Nat := 0
  wgt : List Nat := []
  reads : List (Nat × Nat) := []
  writes : List (Nat × Nat) := []
  body : CardBody := .copy {}
  st : CardSt := .queued
  status : Nat := 0
  /-- work items failed so far -/ failed : Nat := 0
  /-- its contents could not be read: no record, no counter (R303) -/ unread : Bool := false
  /-- predecessors that have not completed -/ preds : List Nat := []
  /-- successors, explicit and derived -/ succs : List Nat := []
  graph : Option Nat := none
  /-- the team whose `card.enq` gave it: a q5 word is due -/ team : Option Who := none
  /-- teams of the grid not retired, and not bound to a slot -/ left : Nat := 0
  unbound : Nat := 0
  setsUsed : List Nat := []
  cid : Nat := 0
  /-- park that holds the reading of its tile table, with cause and address -/ held : Option (Nat × Nat × Nat) := none
  /-- addresses of held reads that are failed (23 R366) -/ fails : List Nat := []
  /-- 0 at work; 1 its work has ended; 2 its completion record is on its way -/ ending : Nat := 0
deriving DecidableEq, Repr, Inhabited

/-- A graph in the launcher (19 R307). -/
structure Graph where
  ctx : Nat := 0
  tenant : Nat := 0
  queue : Nat := 0
  cnt : Nat := 0
  /-- nodes that have not left their last state -/ left : Nat := 0
  status : Nat := 0
  nnode : Nat := 0
  team : Option Who := none
deriving DecidableEq, Repr, Inhabited

/-- An entry of a launcher queue that the launcher has taken from a ring and holds, or that class E placed (19 R303, R327). -/
structure Enq where
  tenant : Nat
  q : Nat
  ctx : Nat
  addr : Nat
  graph : Bool
  /-- the team that enqueued it -/ team : Option Who := none
  /-- the launch of that team's kernel -/ parent : Option Nat := none
  op : Option Nat := none
  /-- park that holds its reading, with cause and address -/ park : Option (Nat × Nat × Nat) := none
  /-- addresses of held reads that are failed (23 R366) -/ fails : List Nat := []
  cid : Nat := 0
deriving DecidableEq, Repr, Inhabited

/-- Where a piece of a copy stands. -/
inductive PieceSt where
  | todo | asked
  /-- its bytes, which of them are poisoned, and the DT at which they came (none: fill, which is not read) -/
  | got (l : List Byte) (bad : List Bool) (dt : Option Nat)
deriving DecidableEq, Repr, Inhabited

/-- A run of bytes of a copy within one line of its source and one line of its destination (19 R309): its slice, its row, its place in
the row and its element size. What is not kept is read for the poison of an element that the line holds in part. -/
structure Piece where
  src : Int
  dst : Int
  len : Nat
  g : Nat := 0
  row : Nat := 0
  off : Nat := 0
  size : Nat := 1
  keep : Bool := true
  st : PieceSt := .todo
deriving DecidableEq, Repr, Inhabited

/-- The bytes that a copy writes in one step: those of one line, whichever slices they come from, or a block record (19 R309, R312). -/
structure Job where
  pieces : List Piece
  /-- a record of R312: row and block, clipped or not -/ blk : Option (Nat × Nat × Bool) := none
  /-- its write is on its way, or waits in the engine for the quarantine (25 R385) -/ written : Bool := false
deriving DecidableEq, Repr, Inhabited

/-- A slice of a team copy, or the one slice of a copy card (19 R308, R314). -/
structure CSlice where
  g : Nat := 0
  /-- its number among accesses: the group's earlier ones have smaller keys -/ id : Nat := 0
  dt : Nat := 0
  empty : Bool := false
  offset : Nat := 0
  handle : Option Nat := none
  comp : Nat := 0
  tb : Nat := 0
  op : Option Nat := none
  /-- threads that issued it -/ lanes : List Nat := []
  desc : Option Desc := none
  /-- the next row and byte of it, or record, to be taken up -/ row : Nat := 0
  off : Nat := 0
  jobs : Tbl Job := []
  begun : Bool := false
  bytes : Nat := 0
  ended : Bool := false
  /-- park that holds it, with cause and address -/ held : Option (Nat × Nat × Nat) := none
  /-- the access that is held: the slice and job it belongs to, and the source address, none for a write -/
  heldAt : Option (Nat × Nat × Option Int) := none
  /-- the range that it reads, as its matrix read left it (15 R258) -/ image : Option Range := none
  /-- bytes and poison that it has put into a range: offset, byte (15 R256) -/ entered : Tbl (Byte × Bool) := []
  /-- destination lines written as poison or discarded (23 R373) -/ badLines : List Int := []
  clipped : Bool := false
  status : Nat := 0
deriving DecidableEq, Repr, Inhabited

/-- A copy: a team's k-th, or a copy card's. -/
structure Copy where
  team : Option Nat := none
  card : Option Nat := none
  num : Nat := 0
  ctx : Nat := 0
  tenant : Nat := 0
  die : Nat := 0
  slices : Tbl CSlice := []
  started : Bool := false
  /-- it has made its first write to a range (15 R256) -/ staled : Bool := false
  status : Nat := 0
  cid : Nat := 0
deriving DecidableEq, Repr, Inhabited

/-! Collectives (19 R315-R320). -/

/-- States of a tile-table entry: `writing` its result is on its way, `counting` its counter's add is. -/
inductive EntrySt where
  | armed | fired | writing | counting | done | failed
deriving DecidableEq, Repr, Inhabited

/-- An entry of an armed instance (19 R315, R316). -/
structure CEntry where
  op : Nat := 0
  fmt : Nat := 0
  nin : Nat := 0
  send : Bool := false
  write : Bool := false
  len : Nat := 128
  laddr : Nat := 0
  daddr : Nat := 0
  peer : Nat := 0
  pidx : Nat := 0
  flag : Nat := 0
  fval : Dword := 0
  senders : List Nat := []
  st : EntrySt := .armed
  /-- the read of its flag at the arming, or the one that a park held, is still to be made -/ toRead : Bool := true
  /-- DT of its firing -/ firedAt : Nat := 0
  /-- DT at which the last thing it waits for came -/ ready : Nat := 0
  /-- contributions held in staging, by their place in SRCDEV -/ contribs : Tbl Contribution := []
  timedOut : Bool := false
  /-- a protocol error named it: its result is poison and it counts as failed -/ proto : Bool := false
  /-- park that holds it, with cause and address, and whether a write is held -/ held : Option (Nat × Nat × Nat) := none
  heldWrite : Bool := false
  /-- held accesses that are failed (23 R366): write or read, and address -/ fails : List (Bool × Nat) := []
  /-- causal id of the contribution sent -/ cid : Nat := 0
  /-- its last run, for a replay of the engine (25 R385): DT, and the contributions that it took -/ ranAt : Nat := 0
  used : Tbl Contribution := []
deriving DecidableEq, Repr, Inhabited

/-- An instance of a tile table (19 R315-R319). -/
structure Inst where
  collid : Word := 0
  table : Nat := 0
  ctx : Nat := 0
  tenant : Nat := 0
  team : Option Who := none
  card : Option Nat := none
  die : Nat := 0
  cnt : Nat := 0
  stg : Nat := 0
  wdc : Nat := 0
  entries : Tbl CEntry := []
  start : Nat := 0
  /-- the final value, where the counter could be read (19 R318, R325) -/ final : Option Dword := none
  active : Bool := true
  /-- it has been aborted, and its card's end waits for the writes on their way (07 R141; 19 R319) -/ aborted : Bool := false
deriving DecidableEq, Repr, Inhabited

/-- An arming in the engine: of `coll.start`, of `coll.rearm` (19 R325), or a peer's counter query that it answers. -/
structure Rearm where
  inst : Inst := {}
  rearm : Bool := false
  /-- the peer whose query it is -/ asker : Option Nat := none
  v : Dword := 0
  /-- peers that have not answered -/ wait : List Nat := []
  low : Bool := false
  /-- 0 the table is to be read, 1 the counter, 2 answers are awaited -/ stage : Nat := 0
  start : Nat := 0
  op : Option Nat := none
  /-- park that holds it, with cause and address -/ park : Option (Nat × Nat × Nat) := none
  /-- addresses of held reads that are failed (23 R366) -/ fails : List Nat := []
  /-- causal id of the packet that caused it (27 R403) -/ cid : Nat := 0
deriving DecidableEq, Repr, Inhabited

/-- A contribution that this device's engine sends and holds until its receiver takes it (19 R317): DT of the run that made it, the
context whose peer table names the receiver, and the receiver. -/
structure Sending where
  dt : Nat := 0
  /-- the die of the engine -/ die : Nat := 0
  ctx : Nat := 0
  peer : Nat := 0
  msg : Contribution
deriving DecidableEq, Repr, Inhabited

/-! Contexts and tenants (21 R334; 23; 29). -/

/-- A fault or trace record before it is laid out (23 R371; 27 R399, R400). `typ` 0 is a fault record, whose bytes 0-3 are
cause, kind and PARKID, 24-31 ADDR, 32-39 PC and 48-55 MASK and DETAIL. -/
structure Rec where
  typ : Nat := 0
  b0 : Nat := 0
  launchid : Word := 0
  x : Word := 0
  y : Word := 0
  z : Word := 0
  thread : Nat := 0xFFFF
  core : Nat := 0xFFFF
  f24 : Nat := 0
  f32 : Nat := 0
  dt : Nat := 0
  f48 : Nat := 0
  flags : Nat := 0
  seq : Nat := 0
  /-- the context whose fault queue it goes to, if any -/ ctx : Option Nat := none
deriving DecidableEq, Repr, Inhabited

/-- An invalidation in progress (23 R361, R363): key range of pages, whole context, accesses waited for. -/
structure Inv where
  first : Nat
  pages : Nat
  all : Bool
  move : Bool
  wait : List Nat
deriving DecidableEq, Repr, Inhabited

/-- States of a migration job (29 R430) and its data. -/
structure Migr where
  state : Nat := 0
  busy : Bool := false
  round : Nat := 0
  late : Nat := 0
  peer : Nat := 0
  key : Nat := 0
  job : Nat := 0
  /-- the final stop has sent what the context holds besides frames (29 R432) -/ sent : Bool := false
  /-- frames of the context that another job's clear has found dirty -/ found : List Nat := []
  /-- the context's frames as the last round took them: first and count -/ frames : List (Nat × Nat) := []
  /-- save records that a refused stop left (30 R434) -/ refused : List Nat := []
  /-- frames of the round that are still to be read and sent: round and frame -/ todo : List (Nat × Nat) := []
deriving DecidableEq, Repr, Inhabited

/-- A context (21 R334; 23 R359, R360, R365, R366; 29 R420, R425, R430). -/
structure Ctx where
  tenant : Nat := 0
  /-- it has been given to its tenant, for life (21 R334) -/ owned : Bool := false
  fqbase : Dword := 0
  fqsize : Word := 0
  fqhead : Word := 0
  fqtail : Word := 0
  fqdrop : Word := 0
  resolve : Word := 0
  /-- ROOT as written, and the root that walks use (23 R359) -/ rootReg : Dword := 0
  root : Dword := 0
  invva : Dword := 0
  invctl : Dword := 0
  done : Bool := false
  refused : Bool := false
  invseq : Nat := 0
  inv : Option Inv := none
  parkid : Nat := 0
  /-- leaves with MIG set under a completed move invalidation, until their move is complete (23 R364): first page and level -/
  moving : List (Nat × Nat) := []
  /-- park and fail records waiting for room (23 R372) -/ fqwait : List Rec := []
  ownQueue : Nat := 1
  peers : Tbl Dword := []
  restoreFailed : Bool := false
  /-- engine events undelivered: number of the team, word and DT (19 R320) -/ events : List (Nat × Word × Nat) := []
  migr : Migr := {}
deriving DecidableEq, Repr, Inhabited

/-- A launcher queue (29 R420). -/
structure LQueue where
  base : Dword := 0
  size : Word := 0
  head : Word := 0
  tail : Word := 0
  ctx : Nat := 0
  bad : Word := 0
deriving DecidableEq, Repr, Inhabited

/-- A tenant (19 R321; 29 R420, R421). Unlisted weights are 1. -/
structure Tenant where
  queues : Tbl LQueue := []
  pend : Word := 0
  mask : Word := 0xFFFFFFFF
  addr : Dword := 0
  data : Word := 0
  weights : Tbl Nat := []
deriving DecidableEq, Repr, Inhabited

/-! The recorder (27), saves (21), repair (25) and messages. -/

/-- A trace source (27 R397, R403). `buf` is its buffer of 256 records. -/
structure Source where
  seq : Nat := 0
  buf : List Rec := []
  drops : Nat := 0
  cid : Nat := 0
deriving DecidableEq, Repr, Inhabited

/-- A saved team (21 R343, R344) as structured content; the bytes of its record stand in memory at `addr`. -/
structure Save where
  addr : Nat := 0
  core : Nat := 0
  ctx : Nat := 0
  dt : Nat := 0
  team : Team := {}
  /-- held and retracted accesses, section 9 -/ accs : Tbl Access := []
  ops : Tbl Op := []
  copies : Tbl Copy := []
  /-- accesses whose late acknowledgement is missing, section 10 -/ late : List Nat := []
  lost : Bool := false
  cmps : Tbl Pcmp := []
  wpts : Tbl Wpt := []
  /-- reservations to enter again: group, handle, granules, threads, pc, word -/ rsv : List Rsv := []
  /-- pending debugger commands: 0 halt, 1 resume, 2 step (22 R347) -/ cmds : List (Nat × DebugTarget) := []
  /-- RESOLVE commands kept for the restore (23 R365) -/ resolves : List (Nat × Nat) := []
  /-- the record as it was written: its bytes, and the payload of each section by type -/ record : List Byte := []
  payload : Tbl (List Byte) := []
  written : Bool := false
  /-- refused, or lost with a late access (21 R345; 22 R351), and its card told of the failed team -/ refused : Bool := false
  told : Bool := false
  /-- the section, by TYPE and VER, that refused it -/ refusal : Option (Nat × Nat) := none
deriving DecidableEq, Repr, Inhabited

/-- What the world outside the device presents with a step of its own (a register write, a command of the management
core, a host or fabric access, a sensor): the step reads the fields its constructor's docstring names (log 9). -/
structure Input where
  core : Nat := 0
  slice : Nat := 0
  lane : Nat := 0
  ctx : Nat := 0
  tenant : Nat := 0
  q : Nat := 0
  tk : Nat := 0
  id : Nat := 0
  peer : Nat := 0
  /-- causal id of the packet (27 R403) -/ cid : Nat := 0
  die : Nat := 0
  cluster : Nat := 0
  link : Nat := 0
  line : Nat := 0
  addr : Nat := 0
  count : Nat := 0
  value : Dword := 0
  words : List Dword := []
  flag : Bool := false
  time : Option Dword := none
  bytes : List Byte := []
  header : List Byte := []
  mask : Byte := 0
  key : BitVec 128 := 0
  region : Region := .tileStore
  scrub : ScrubResult := .clean
  target : DebugTarget := default
  hostOp : HostOp := default
  remoteOp : RemoteOp := default
  reg : Reg := .draint
  msg : Contribution := default
  /-- a saved team that comes from another device (29 R432) -/ saved : Option Save := none
deriving DecidableEq, Repr, Inhabited

/-- The state of a core as it stood at a DT, for strike replay (25 R380). -/
structure Checkpoint where
  dt : Nat
  core : Core
  teams : Tbl Team
  issues : List Issue
  ops : Tbl Op
  accs : Tbl Access
  copies : Tbl Copy
deriving DecidableEq, Repr, Inhabited

/-- Ageing of a cluster of eight cores (25 R392, R394), power and thermal steps (29 R433). -/
structure Cluster where
  steps : Nat := 0
  unlock : Bool := false
  retreq : Bool := false
  drift : Nat := 0
  /-- steps computed and waiting for a clause boundary -/ pending : Option Nat := none
  /-- steps of 25 MHz that power or heat asks for, and those that wait -/ cap : Nat := 0
  capPend : Option Nat := none
  /-- DT of the next comparison -/ next : Nat := 2 ^ 20
  /-- DT up to which no clause issues (a clock step) -/ stop : Nat := 0
deriving DecidableEq, Repr, Inhabited

/-- A link (25 R386, R391). -/
structure LinkSt where
  spares : Nat := 0
  retries : Nat := 0
  failed : Bool := false
deriving DecidableEq, Repr, Inhabited

/-- What leaves the device for the world outside, or answers it (the model's own record of it). A packet of a link carries the causal id
of the request that caused it, and a response its request's (27 R403): `cid`. A message to an Ultra Ethernet peer names the endpoint of
its context's peer table (29 R425): `dest`. -/
inductive OutMsg where
  /-- an interrupt message to host memory (29 R422) -/ | irq (cid addr : Nat) (v : Word)
  /-- a collective contribution sent (19 R316) -/ | contribution (peer : Nat) (dest : Option Dword) (pidx : Nat) (m : Contribution)
  /-- a counter query sent (19 R325) -/ | counterQuery (cid peer : Nat) (dest : Option Dword) (collid : Word)
  /-- its answer, none where the counter counts as below V -/ | counterAnswer (cid peer : Nat) (v : Option Dword)
  /-- a mailbox record popped (27 R410, R411): 64 bytes -/ | mailbox (l : List Byte)
  /-- bytes answered to the host or to another device (29 R418, R424), with the end of the lease for a device that reads (07 R123) -/
  | bytes (cid : Nat) (l : List Byte) (le : Nat)
  /-- the acknowledgement of another device's store, add or atomic (07 R126; 29 R424): GWCT, and the value that an atomic found -/
  | done (cid gwct : Nat) (value : List Byte)
  /-- a refused or poisoned access (29 R424) -/ | refused (cid cause : Nat)
  /-- a revocation sent to a core of another device (07 R127): line and words -/ | revoke (cid owner line : Nat) (words : List Nat)
  /-- a snapshot DT forwarded (27 R405) -/ | snapshot (cid : Nat) (s : Dword)
  /-- an attestation report (29 R429) -/ | report (l : List Byte)
  /-- a pre-copy transfer (29 R431) -/ | transfer (cid peer : Nat) (dest : Option Dword) (iv : Nat) (l : List Byte)
  /-- a request to send a frame again (29 R431) -/ | resend (cid iv : Nat)
  /-- what the final stop sends of a context (29 R432): its save records, the registers of its control block, those of its queues, and the
  addresses that its queues still hold, with a graph's mark -/
  | context (cid ctx : Nat) (records : List (List Byte)) (block : List Dword) (queues : List (List Dword)) (held : List (Nat × Bool))
  /-- status of a debugger command: 0 done, 1 pending, 2 no such target (27 R412; 22 R347) -/ | debugStatus (c : Nat)
  /-- a dirty-bitmap word fetched and cleared (25 R395) -/ | bitmap (word : Nat) (v : Dword)
deriving DecidableEq, Repr, Inhabited

end Sys2Proof.Machine
end

