-- ==== Sys2Proof/Machine/State.lean ====
section
/-! DEFINITION. The state of the T9, its faults and refusals, and the state right after reset. -/

namespace Sys2Proof.Machine

/-- Why a step stops with a fault. Every cause of the spec's own table has a next state, so this is the one fault. -/
inductive Fault where
  /-- raised by `step` when the next word of a clause in progress is no instruction: a clause is decoded whole before it
  issues (05 R80), so no run reaches it. Safe. -/
  | undecodedWord
deriving DecidableEq, Repr

/-- Why an instruction has no meaning here. -/
inductive Refusal where
  /-- raised by the arm of `exec` of an instruction that has no meaning yet, with its mnemonic. Safe. -/
  | notModelled (mnemonic : String)
deriving DecidableEq, Repr

/-- The state of the device (INVENTORY.md, State, lists each piece with its rule). -/
structure State where
  /-- device time (00 R10) -/ dt : Nat
  /-- number of free values drawn: the model's own (log 3) -/ free : Nat
  /-- steps still to come, with what comes in with them: the model's own (log 4) -/ agenda : List (Instr × Input)
  /-- what comes in with the step being made (log 9) -/ input : Input
  /-- the next step issues the next word of the first clause in progress: the model's own (log 4) -/ turn : Bool
  /-- clauses in progress, the one that issues next first (05 R80) -/ issues : List Issue
  /-- HBM, host memory, scratchpads and other devices' frames, by key of log 7 -/ mem : Mem
  /-- keys of the 32-bit words whose poison mark is set (23 R368) -/ poison : List Nat
  /-- lines at their home slices, by key / 128 -/ lines : Tbl Line
  /-- accumulators open at slices, by line -/ accums : Tbl Accum
  accs : Tbl Access
  ops : Tbl Op
  /-- next key of an access, op, copy, card, instance or save -/ nextId : Nat
  cores : Tbl Core
  /-- teams by 16 × core + slot -/ teams : Tbl Team
  copies : Tbl Copy
  cards : Tbl Card
  graphs : Tbl Graph
  enqs : List Enq
  insts : Tbl Inst
  rearms : Tbl Rearm
  /-- contributions for this device that their senders hold (19 R317) -/ msgs : List Contribution
  /-- contributions that this device's engines hold (19 R317) -/ sending : List Sending
  /-- accesses from outside that wait for their lines, the oldest first (12 R217; log 74) -/ deferred : List (Instr × Input)
  ctxs : Tbl Ctx
  tenants : Tbl Tenant
  saves : Tbl Save
  checks : Tbl (List Checkpoint)
  /-- commands of the management core and the runtime in the replay window, which a replay takes again (25 R380) -/
  recent : List (Nat × Instr × Input)
  /-- injections that a replay makes again, each at its place among the words made again (15 R280; 16 R281) -/
  redo : List Input
  /-- die TLBs (23 R357) -/ dieTlb : Tbl (List TlbE)
  /-- LEASECTL (07 R123) -/ llhbm : Nat
  llhost : Nat
  draint : Nat
  dskew : Nat
  /-- scratchpad bytes per die (07 R119) -/ spsize : Nat
  devno : Nat
  /-- frames granted: device, tenant, frame (29 R424) -/ grants : List (Nat × Nat × Nat)
  readyReg : Word
  failedReg : Word
  fwRunning : Bool
  fwCounter : Dword
  /-- the version and the image of the firmware that was accepted last (29 R428, R429) -/ fwVersion : Dword
  fwImage : List Byte
  pwrcap : Dword
  snapdt : Dword
  snapPend : Bool
  snapRefused : Bool
  /-- the snapshot has been taken and its end is due -/ snapTaken : Bool
  /-- sillage store (27 R398) -/ windex : Nat
  resets : Nat
  trace : Mem
  /-- slots with an uncorrectable error (27 R401) -/ damaged : List Nat
  /-- frames written by pre-copy transfers: job and round of the last (30 R431) -/ received : Tbl (Nat × Nat)
  sources : Tbl Source
  /-- dirty frames of this device's HBM (25 R395) -/ dirty : List Nat
  /-- replaced home slices: die × 32 + slice (25 R391) -/ replaced : List Nat
  /-- frames withdrawn with a lost channel: first and count (25 R391) -/ lostFrames : List (Nat × Nat)
  /-- repaired rows: stack and row -/ repaired : List (Nat × Nat)
  clusters : Tbl Cluster
  links : Tbl LinkSt
  /-- key slots (29 R431), not readable, and the transfers counted under each key -/ keys : Tbl (BitVec 128)
  keyCounts : Tbl Nat
  outbox : List OutMsg
  /-- corrected errors by unit (25 R386): 0 the HBM, 1 the trace memory, 2 + 32 × die + slice a home slice, 256 + n link n, 1024 + n the core
  or engine of source n -/ corrected : Tbl Nat
deriving DecidableEq, Repr

/-- The state right after reset: the values the spec states, and those of log 1 and log 2 where it states none. -/
def State.reset : State where
  dt := 0
  free := 0
  agenda := []
  input := {}
  turn := false
  issues := []
  mem := []
  poison := []
  lines := []
  accums := []
  accs := []
  ops := []
  nextId := 1
  cores := []
  teams := []
  copies := []
  cards := []
  graphs := []
  enqs := []
  insts := []
  rearms := []
  msgs := []
  sending := []
  deferred := []
  ctxs := []
  tenants := []
  saves := []
  checks := []
  recent := []
  redo := []
  dieTlb := []
  llhbm := 512
  llhost := 512
  draint := 24000
  dskew := 240
  spsize := 0
  devno := 0
  grants := []
  readyReg := 0
  failedReg := 0
  fwRunning := false
  fwCounter := 0
  fwVersion := 0
  fwImage := []
  pwrcap := 0
  snapdt := 0
  snapPend := false
  snapRefused := false
  snapTaken := false
  windex := 0
  resets := 0
  trace := []
  damaged := []
  received := []
  sources := []
  dirty := []
  replaced := []
  lostFrames := []
  repaired := []
  clusters := []
  links := []
  keys := []
  keyCounts := []
  outbox := []
  corrected := []

end Sys2Proof.Machine
end

