-- ==== Sys2Proof/Machine/Ops.lean ====
section
/-! DEFINITION. The named operations over the state: its parts, registers, records, translation, memory, spill and link
traffic, taking a trap and returning from one, kills, parks and barrier deductions. -/

namespace Sys2Proof.Machine

/-! Parts of the state. -/

/-- The core of a team key. -/
def coreOf (tk : Nat) : Nat := tk / 16
/-- The die of a core (00 R2). -/
def dieOf (core : Nat) : Nat := core / 72
/-- 01 R15, R19: the core lane of a thread of a group. -/
def laneOf (g t : Nat) : Nat := 32 * (g % 4) + t
def State.core (s : State) (c : Nat) : Core := tget s.cores c {}
def State.cluster (s : State) (n : Nat) : Cluster := tget s.clusters n {}
/-- 25 R393: ticks of `n` cycles of a core's pipeline, at 25 MHz below 1,200 MHz for each step of its cluster, rounded up (log 110). -/
def State.cycles (s : State) (core n : Nat) : Nat :=
  let x := s.cluster (core / 8)
  let mhz := 1200 - 25 * max x.steps x.cap
  (n * 1200 + mhz - 1) / mhz
def State.setCore (s : State) (c : Nat) (k : Core) : State := { s with cores := tset s.cores c k }
def State.modCore (s : State) (c : Nat) (f : Core → Core) : State := s.setCore c (f (s.core c))
def State.team (s : State) (tk : Nat) : Option Team := tget? s.teams tk
def State.modTeam (s : State) (tk : Nat) (f : Team → Team) : State := { s with teams := tmod s.teams tk f }
def State.group (s : State) (tk g : Nat) : Option Group := (s.team tk).bind fun m => tget? m.groups g
def State.modGroup (s : State) (tk g : Nat) (f : Group → Group) : State :=
  s.modTeam tk fun m => { m with groups := tmod m.groups g f }
def State.thread (s : State) (tk g t : Nat) : Option Thread := (s.group tk g).bind fun m => tget? m.th t
def State.modThread (s : State) (tk g t : Nat) (f : Thread → Thread) : State :=
  s.modGroup tk g fun m => { m with th := tmod m.th t f }
def State.ctx (s : State) (c : Nat) : Ctx := tget s.ctxs c {}
def State.setCtx (s : State) (c : Nat) (x : Ctx) : State := { s with ctxs := tset s.ctxs c x }
def State.modCtx (s : State) (c : Nat) (f : Ctx → Ctx) : State := s.setCtx c (f (s.ctx c))
def State.tenant (s : State) (t : Nat) : Tenant := tget s.tenants t {}
def State.setTenant (s : State) (t : Nat) (x : Tenant) : State := { s with tenants := tset s.tenants t x }
def State.line (s : State) (l : Nat) : Line := tget s.lines l {}
def State.setLine (s : State) (l : Nat) (x : Line) : State := { s with lines := tset s.lines l x }
def State.slot (s : State) (tk : Nat) : Slot := tget (s.core (coreOf tk)).slots (tk % 16) {}
def State.setSlot (s : State) (tk : Nat) (x : Slot) : State :=
  s.modCore (coreOf tk) fun c => { c with slots := tset c.slots (tk % 16) x }
def State.modAcc (s : State) (id : Nat) (f : Access → Access) : State := { s with accs := tmod s.accs id f }
/-- A fresh key, and the state that has used it. -/
def State.fresh (s : State) : Nat × State := (s.nextId, { s with nextId := s.nextId + 1 })
/-- The number of the next free value, and the state that has drawn it (log 3). -/
def State.draw (s : State) : Nat × State := (s.free, { s with free := s.free + 1 })
/-- The clause that issues now. -/
def State.cur (s : State) : Option Issue := s.issues.head?
/-- Change the clause that issues now. -/
def State.modCur (s : State) (f : Issue → Issue) : State :=
  match s.issues with
  | [] => s
  | i :: r => { s with issues := f i :: r }
/-- A step put on the agenda. -/
def State.push (s : State) (i : Instr) : State := { s with agenda := s.agenda ++ [(i, {})] }

/-- Fold an update over a list of threads or parts. -/
def overAll {α : Type} (l : List α) (f : State → α → State) (s : State) : State := l.foldl f s

/-! Threads. -/

def Thread.exited (th : Thread) : Bool := th.st == .exited
/-- 01 R25: neither Exited nor Halted. -/
def Thread.live (th : Thread) : Bool := !th.exited && !th.halted
def Thread.waiting (th : Thread) : Bool := match th.st with | .waiting _ _ => true | _ => false
/-- The conditions a thread waits under. -/
def Thread.conds (th : Thread) : List WaitOn := match th.st with | .waiting cs _ => cs | _ => []
/-- 01 R23: able to issue. -/
def Thread.isReady (th : Thread) : Bool := th.st == .ready && !th.halted
/-- The threads of a group that are live (01 R25). -/
def Group.liveThreads (g : Group) : List Nat := (g.th.filter fun e => e.2.live).map (·.1)
/-- The threads of a group that are not Exited. -/
def Group.notExited (g : Group) : List Nat := (g.th.filter fun e => !e.2.exited).map (·.1)
def Group.parked (g : Group) : Bool := !g.parks.isEmpty
def Group.thread (g : Group) (t : Nat) : Thread := tget g.th t {}
/-- Parked by something other than an access, so that no thread of the group is anything but Parked (01 R23). -/
def Team.group (m : Team) (g : Nat) : Group := tget m.groups g {}
/-- 01 R34: the window. -/
def Group.window (g : Group) : Nat := min 64 g.ba

/-- 09 R150: a predicate of a thread; p7 reads as true (01 R32). -/
def Thread.pred (th : Thread) (i : Nat) : PBool :=
  if i == 7 then { val := true, poison := false }
  else { val := th.p.getLsbD i && !th.ppois.getLsbD i, poison := th.ppois.getLsbD i }
/-- A predicate with its negation. -/
def Thread.predN (th : Thread) (i : Nat) (neg : Bool) : PBool :=
  let b := th.pred i
  { val := b.val != neg, poison := b.poison }
/-- 01 R32: write a predicate; a write to p7 is discarded. -/
def Thread.setPred (th : Thread) (i : Nat) (b : PBool) : Thread :=
  if i == 7 then th else
  let m : BitVec 8 := 1 <<< i
  { th with p := if b.val && !b.poison then th.p ||| m else th.p &&& ~~~m,
            ppois := if b.poison then th.ppois ||| m else th.ppois &&& ~~~m }

/-- 01 R34: the register vn of a thread whose budget is `ba`. -/
def Thread.reg (th : Thread) (ba n : Nat) : PWord := tget th.v ((th.wb + n) % ba) { val := 0, poison := false }
def Thread.setReg (th : Thread) (ba n : Nat) (x : PWord) : Thread := { th with v := tset th.v ((th.wb + n) % ba) x }
/-- 01 R31. -/
def Group.sreg (g : Group) (n : Nat) : PWord := tget g.s n { val := 0, poison := false }
/-- A value with its poison; poisoned data bits are zero (09 R150). -/
def pw (v : Word) (p : Bool) : PWord := { val := if p then 0 else v, poison := p }
/-- An unpoisoned word. -/
def clean (v : Word) : PWord := { val := v, poison := false }
/-- Poison. -/
def poisoned : PWord := { val := 0, poison := true }

/-- Registers that a fragment sidecar covers, as logical registers (15 R263, R264). -/
def Frag.count (f : Frag) : Nat := fragRegs f.fmt f.ks f.sc
/-- The rows of a quarter that data register `i` of it holds. -/
def Frag.rowsOf (f : Frag) (i : Nat) : List Nat :=
  let rowBytes := f.ks * (Fmt.ofCode f.fmt).width / 8
  (List.range 16).filter fun r => decide (r * rowBytes < 128 * i + 128 ∧ 128 * i < (r + 1) * rowBytes)
/-- 15 R264: a write to logical register `l` makes the sidecars that cover it stale; poison marks the rows it holds. -/
def Frag.touch (f : Frag) (l : Nat) (p : Bool) : Frag :=
  if f.st == .empty || l < f.base || f.base + f.count ≤ l then f else
  let rows := if p then f.rowsOf (l - f.base) else []
  { f with st := .stale,
           side := { f.side with rows := rows.foldl (fun m r => tset m r { tget m r {} with poison := true }) f.side.rows } }

/-- Write a v register of a thread. -/
def State.setV (s : State) (tk g t n : Nat) (x : PWord) : State :=
  s.modGroup tk g fun m =>
    let th := m.thread t
    { m with th := tmod m.th t fun th => th.setReg m.ba n x
             fs := m.fs.map fun e => (e.1, e.2.touch (th.wb + n) x.poison) }
/-- Write an s register of a group. -/
def State.setS (s : State) (tk g n : Nat) (x : PWord) : State := s.modGroup tk g fun m => { m with s := tset m.s n x }
/-- Write the register of a code (05 R90), for a thread where it is a v register. -/
def State.setR (s : State) (tk g t code : Nat) (x : PWord) : State :=
  if code < 64 then s.setV tk g t code x else s.setS tk g (code - 64) x
/-- Read the register of a code. -/
def State.getR (s : State) (tk g t code : Nat) : PWord :=
  match s.group tk g with
  | none => clean 0
  | some m => if code < 64 then (m.thread t).reg m.ba code else m.sreg (code - 64)

/-! Home slices: where a key lives (23 R356; log 7). -/

/-- First key of host memory. -/
def hostBase : Nat := 2 ^ 48
/-- First key of the scratchpad of a die. -/
def spBase (die : Nat) : Nat := 2 ^ 49 + die * 2 ^ 26
/-- First key of the HBM of another device. -/
def remoteBase (dev : Nat) : Nat := 2 ^ 50 * (1 + dev)
/-- Is the key in HBM of this device? -/
def isHbm (key : Nat) : Bool := key < hostBase
def isHost (key : Nat) : Bool := hostBase ≤ key && key < 2 ^ 49
def isScratch (key : Nat) : Bool := 2 ^ 49 ≤ key && key < 2 ^ 50
def isRemote (key : Nat) : Bool := 2 ^ 50 ≤ key
/-- 23 R356, 07 R119: home die of a key (of another device's key, the die of that device). -/
def homeDie (key : Nat) : Nat :=
  if isHbm key then key / Config.dieBytes % 4
  else if isHost key then key / 2 ^ 12 % 4
  else if isScratch key then (key - 2 ^ 49) / 2 ^ 26
  else key % 2 ^ 50 / Config.dieBytes
/-- 23 R356, 07 R119; a replaced slice's lines home at slice s xor 16 (25 R391). -/
def State.homeSlice (s : State) (key : Nat) : Nat :=
  let sl :=
    if isScratch key then field key 7 5
    else if isHost key then field key 7 5 ^^^ field (key - hostBase) 14 5
    else field key 7 5 ^^^ field key 12 5
  if homeDie key * 32 + sl ∈ s.replaced then sl ^^^ 16 else sl
/-- The trace source number of a key's home slice (27 R397). -/
def State.sliceSource (s : State) (key : Nat) : Nat := 640 + 32 * homeDie key + s.homeSlice key

/-- 23 R356: the HBM stack of its home die that holds a key. -/
def stackOf (key : Nat) : Nat := key % 2 ^ 48 / 4096 % 3

/-- The die of a core, a copy engine or a collective engine (27 R397). -/
def sourceDie (src : Nat) : Option Nat :=
  if src < 288 then some (dieOf src) else if 512 ≤ src && src < 520 then some (src % 4) else none
/-- Slamel Link and the host behind it (27 R397). -/
def isSlamel (src : Nat) : Bool := src == 772 || src == 1023
/-- The source of an access of a core of another device, and the owner as which a store of it registers that core (07 R127). -/
def peerSrc (device core : Nat) : Nat := 1024 + 512 * device + core % 512
def isPeer (src : Nat) : Bool := 1024 ≤ src
/-- 07 R436: least ticks from a source to the home slice of a key; the rule gives none for another device's memory. -/
def routeMin (src key : Nat) : Nat :=
  if isRemote key then 0 else
  match sourceDie src with
  | some d => if d == homeDie key then 4 else 30
  | none => if isSlamel src then 24 else if src < 800 then 20 else 0
/-- 12 R217: the ingress port by which an access of a source reaches the slice of a key, in the order they are taken; which base
die carries a unit is a free value (log 91). -/
def portOf (src key : Nat) : Nat :=
  match sourceDie src with
  | some d => if d == homeDie key then 0 else 1 + d
  | none => if isSlamel src then 8 else if src < 800 then 5 + (Config.upperBase src).toNat else 7

/-! Memory by word, with poison marks (23 R368). -/

/-- Is the poison mark of the word at a key set? -/
def State.marked (s : State) (key : Nat) : Bool := (key / 4 * 4) ∈ s.poison
/-- Do the words of a run of bytes hold a poison mark? -/
def State.anyMarked (s : State) (key n : Nat) : Bool :=
  (List.range ((key % 4 + n + 3) / 4)).any fun i => s.marked (key / 4 * 4 + 4 * i)
/-- Set or clear the mark of the word at a key. -/
def State.mark (s : State) (key : Nat) (p : Bool) : State :=
  { s with poison := if p then sadd s.poison (key / 4 * 4) else sdel s.poison (key / 4 * 4) }
/-- The bytes at a key. -/
def State.bytes (s : State) (key n : Nat) : List Byte := mgets s.mem key n
/-- The 64-bit value at a key. -/
def State.dword (s : State) (key : Nat) : Nat := leNat (s.bytes key 8)
/-- The word at a key with its mark. -/
def State.word (s : State) (key : Nat) : PWord := pw (wn (leNat (s.bytes key 4))) (s.marked key)

/-- 11 R191: write bytes; a word written whole loses its mark, a word written in part keeps it. -/
def State.putBytes (s : State) (key : Nat) (l : List Byte) : State :=
  let s := { s with mem := msets s.mem key l }
  let first := key / 4 * 4
  (List.range ((key % 4 + l.length + 3) / 4)).foldl (fun s i =>
    let w := first + 4 * i
    if key ≤ w && w + 4 ≤ key + l.length then s.mark w false else s) s
/-- 25 R395, 29 R432: a write performed to a frame of this device's HBM marks it in the dirty bitmap; after the last round of a
migration it is counted as late. -/
def State.dirtyFrame (s : State) (key : Nat) : State :=
  if !isHbm key then s else
  let f := key / 4096
  { s with dirty := sadd s.dirty f
           ctxs := s.ctxs.map fun (c, (x : Ctx)) => (c, if x.migr.state == 3 && x.migr.frames.any fun r => r.1 ≤ f && f < r.1 + r.2
             then { x with migr := { x.migr with late := x.migr.late + 1 } } else x) }

/-! Causal ids and records (27 R397-R403; 23 R371, R372). -/

/-- 27 R403: a new causal id of a source. -/
def State.newCid (s : State) (src : Nat) : Nat × State :=
  let x := tget s.sources src {}
  (s.devno * 2 ^ 48 + src * 2 ^ 38 + x.cid,
   { s with sources := tset s.sources src { x with cid := (x.cid + 1) % 2 ^ 38 } })

/-- 23 R371: the 64 bytes of a record's common layout: bytes 0-55 (27 R399). -/
def Rec.body (r : Rec) : List Byte :=
  leBytes 4 r.b0 ++ leBytes 4 r.launchid.toNat ++ leBytes 4 r.x.toNat ++ leBytes 4 r.y.toNat ++ leBytes 4 r.z.toNat ++
  leBytes 2 r.thread ++ leBytes 2 r.core ++ leBytes 8 r.f24 ++ leBytes 8 r.f32 ++ leBytes 8 r.dt ++ leBytes 8 r.f48

/-- 23 R372: is the fault queue of a context full (FQHEAD − FQTAIL = FQSIZE)? -/
def Ctx.fqFull (c : Ctx) : Bool := c.fqhead - c.fqtail == c.fqsize
/-- 27 R397: hand a record to its source's buffer; it is delivered by TRACE_RECORD_STORE. A full buffer drops every type
but 0; the next record after drops carries the loss flag, and a loss record stands before it. -/
def State.emit (s : State) (src : Nat) (r : Rec) : State :=
  let x := tget s.sources src {}
  let n := x.buf.length
  if r.typ ≠ 0 && (256 ≤ n || (x.drops ≠ 0 && 255 ≤ n)) then
    { s with sources := tset s.sources src { x with drops := x.drops + 1 } }
  else
    let l := if x.drops == 0 then [r] else
      [({ typ := 17, core := src, f24 := x.drops, dt := r.dt } : Rec), { r with flags := r.flags ||| 4 }]
    { s with sources := tset s.sources src { x with
        buf := x.buf ++ l.zipIdx.map fun (q, i) => { q with seq := (x.seq + i) % 2 ^ 16 }, seq := (x.seq + l.length) % 2 ^ 16, drops := 0 } }

/-- 27 R397: does a source issue? It does not while a fault record waits for room in its buffer. -/
def State.roomAt (s : State) (src : Nat) : Bool := (tget s.sources src {}).buf.length ≤ 256

/-- A record that names a thread or lanes of a group (23 R371; 27 R402). -/
def State.nameRec (s : State) (tk g : Nat) (lanes : List Nat) (r : Rec) : Rec :=
  match s.team tk with
  | none => { r with dt := s.dt }
  | some m => { r with launchid := m.launchid, x := m.x, y := m.y, z := m.z, core := coreOf tk, dt := s.dt,
                       thread := 32 * g + lanes.headD 0, ctx := if r.typ == 0 then some m.ctx else none }

/-- Fault record kinds (23 R371). -/
def kPark : Nat := 0
def kPoison : Nat := 1
def kTrap : Nat := 2
def kKill : Nat := 3
def kEvent : Nat := 4
def kFail : Nat := 5

/-- 23 R371: a fault record of threads of a group. -/
def State.fault (s : State) (tk g : Nat) (lanes : List Nat) (cause kind : Nat) (addr pc detail : Nat)
    (parkid : Nat := 0) : State :=
  s.emit (coreOf tk) (s.nameRec tk g lanes
    { typ := 0, b0 := cause + 256 * kind + 65536 * parkid, f24 := addr, f32 := pc,
      f48 := maskOf lanes + 2 ^ 32 * (detail % 2 ^ 32) })
/-- What the records of a team name, and of a card. -/
def Team.who (m : Team) : Who := { uid := m.uid, launchid := m.launchid, x := m.x, y := m.y, z := m.z }
def Card.who (c : Card) : Who := { launchid := c.cardid }
/-- What the records of an access name: its team, which may have been saved since (21 R341). -/
def State.nameAcc (s : State) (a : Access) (r : Rec) : Rec :=
  if a.save.isSome then
    { r with launchid := a.who.launchid, x := a.who.x, y := a.who.y, z := a.who.z, core := a.src, dt := s.dt,
             thread := 32 * a.g + a.lanes.headD 0, ctx := if r.typ == 0 then some a.ctx else none }
  else s.nameRec a.tk a.g a.lanes r
/-- A fault record of an engine item (23 R371). -/
def State.engineFault (s : State) (src ctx : Nat) (w : Who) (cause kind addr detail : Nat) (parkid : Nat := 0) : State :=
  s.emit src { typ := 0, b0 := cause + 256 * kind + 65536 * parkid, launchid := w.launchid, x := w.x, y := w.y, z := w.z
               core := if src < 288 then src else 0xFFFF, f24 := addr, f48 := 2 ^ 32 * (detail % 2 ^ 32), dt := s.dt, ctx := some ctx }

/-! Translation (23 R352-R357). -/

/-- What an access needs of a leaf (23 R355). -/
inductive Perm where
  | read | write | atom | exec | spill | drop
  /-- a commit or close: a write of a page in HBM of this device with TGT 0 (23 R356) -/ | tile
deriving DecidableEq, Repr

/-- What translation finds. -/
inductive Xlate where
  /-- the physical key, and whether poisoned data on the page are recoverable -/ | ok (key : Nat) (rec : Bool)
  /-- page not present -/ | absent
  /-- page migrating -/ | migrating
  | protection
  /-- unmapped, with DETAIL of 23 R354 -/ | unmapped (detail : Nat)
  /-- an address with bits 63:56 set (23 R352) -/ | outside
deriving DecidableEq, Repr, Inhabited

/-- 23 R352: low bit of the index of a level, which is the size of its leaf. -/
def levelShift (l : Nat) : Nat := 12 + 9 * l
/-- 23 R354: is a valid entry at a level malformed? -/
def malformed (e l : Nat) : Bool :=
  let pfn := field e 12 36
  let leaf := !e.testBit 1
  if leaf then
    e.testBit 11 || field e 56 8 ≠ 0 || field e 9 2 == 3 || 2 < l || pfn * 4096 % 2 ^ levelShift l ≠ 0 ||
      (field e 9 2 == 0 && Config.hbmBytes ≤ pfn * 4096) || (field e 48 8 ≠ 0 && field e 9 2 ≠ 1)
  else l == 0
/-- 23 R355: does a leaf admit an access? -/
def admits (e : Nat) (p : Perm) : Bool :=
  let r := e.testBit 2
  let w := e.testBit 3
  let x := e.testBit 4
  let spo := e.testBit 5
  match p with
  | .read => r && !spo | .write => w && !spo | .atom => r && w && !spo | .exec => x && !spo
  | .spill => spo && r && w | .drop => !spo | .tile => w && !spo && field e 9 2 == 0
/-- 23 R353, R356: the key of an address under a leaf. -/
def leafKey (devno e l va : Nat) : Nat :=
  let pa := field e 12 36 * 4096 + va % 2 ^ levelShift l
  match field e 9 2 with
  | 2 => hostBase + pa
  | 1 => if field e 48 8 == devno then pa else remoteBase (field e 48 8) + pa
  | _ => pa

/-- 23 R352, R357: the walk from level `l` down, by the table at physical address `tbl`. -/
def State.walkFrom (s : State) (va : Nat) : Nat → Nat → Except Xlate (Nat × Nat)
  | l, tbl =>
    let idx := if l == 4 then field va 48 8 else field va (levelShift l) 9
    let e := s.dword (tbl + 8 * idx)
    if !e.testBit 0 then .error (if e.testBit 8 then .absent else .unmapped 0)
    else if malformed e l then .error (.unmapped (l + 256))
    else if e.testBit 1 then
      match l with
      | 0 => .error (.unmapped 256)
      | l + 1 => s.walkFrom va l (field e 12 36 * 4096)
    else .ok (l, e)

/-- Does a cached translation match? -/
def TlbE.hits (e : TlbE) (ctx va : Nat) : Bool := e.ctx == ctx && e.page == va / 2 ^ levelShift e.level
/-- 23 R357: the 4 KiB translation of an address that an entry gives. -/
def TlbE.small (e : TlbE) (va : Nat) : TlbE :=
  let p := e.pte.toNat
  { e with level := 0, page := va / 4096
           pte := BitVec.ofNat 64 (p % 2 ^ 12 + 4096 * (field p 12 36 + va % 2 ^ levelShift e.level / 4096) + p / 2 ^ 48 * 2 ^ 48) }
/-- Keep an entry at the front of a list of at most `n` (log 11). -/
def keep {α : Type} [BEq α] (n : Nat) (l : List α) (e : α) : List α := (e :: l.filter (· != e)).take n

/-- 23 R357: translate for a lane of a core (or with no lane), filling the structures it passes. -/
def State.xlate (s : State) (core : Nat) (lane : Option Nat) (ctx va : Nat) (p : Perm) : Xlate × State :=
  let c := s.core core
  let die := dieOf core
  let useLeaf (l e : Nat) : Xlate := if admits e p then .ok (leafKey s.devno e l va) (e.testBit 7) else .protection
  let last := lane.bind fun n => (tget? c.lastPage n).filter (·.hits ctx va)
  match last with
  | some e => (useLeaf e.level e.pte.toNat, s)
  | none =>
    let fill (e : TlbE) (s : State) : State :=
      match lane with
      | some n => s.modCore core fun c => { c with lastPage := tset c.lastPage n (e.small va), tlb := keep 2048 c.tlb e }
      | none => s.modCore core fun c => { c with tlb := keep 2048 c.tlb e }
    match c.tlb.find? (·.hits ctx va), (tget s.dieTlb die []).find? (·.hits ctx va) with
    | some e, _ => (useLeaf e.level e.pte.toNat, fill e s)
    | none, some e => (useLeaf e.level e.pte.toNat, fill e s)
    | none, none =>
      match s.walkFrom va 4 (s.ctx ctx).root.toNat with
      | .error x => (x, s)
      | .ok (l, e) =>
        if e.testBit 6 then (.migrating, s) else
        let ent : TlbE := { ctx := ctx, level := l, page := va / 2 ^ levelShift l, pte := BitVec.ofNat 64 e }
        let s := fill ent { s with dieTlb := tset s.dieTlb die (keep 524288 (tget s.dieTlb die []) ent) }
        (useLeaf l e, s)

/-- A translation with no structure of a core (engines, launcher): the die TLB and a walk. -/
def State.xlateDie (s : State) (die ctx va : Nat) (p : Perm) : Xlate :=
  let useLeaf (l e : Nat) : Xlate := if admits e p then .ok (leafKey s.devno e l va) (e.testBit 7) else .protection
  if 2 ^ 56 ≤ va then .outside else
  match (tget s.dieTlb die []).find? (·.hits ctx va) with
  | some e => useLeaf e.level e.pte.toNat
  | none =>
    match s.walkFrom va 4 (s.ctx ctx).root.toNat with
    | .error x => x
    | .ok (l, e) => if e.testBit 6 then .migrating else useLeaf l e

/-- Cause code of a failed translation of an access (23 R375). -/
def Xlate.cause (x : Xlate) : Nat :=
  match x with | .ok _ _ => 0 | .absent => 8 | .migrating => 9 | .protection => 11 | .unmapped _ => 12 | .outside => 13
/-- DETAIL of a failed translation (23 R354). -/
def Xlate.detail (x : Xlate) : Nat := match x with | .unmapped d => d | _ => 0
/-- 11 R195: is a cause of an access a park cause? -/
def isParkCause (c : Nat) : Bool := c == 8 || c == 9 || c == 10

/-! Parks (23 R365). -/

/-- A new PARKID of a context. -/
def State.newPark (s : State) (ctx : Nat) : Nat × State :=
  let c := s.ctx ctx
  (c.parkid, s.setCtx ctx { c with parkid := (c.parkid + 1) % 2 ^ 16 })
/-- More lanes of a parked page whose record is of this tick and still in its source's buffer. -/
def State.widenPark (s : State) (tk g ctx id : Nat) (x : PPage) : State :=
  let widen (r : Rec) : Rec :=
    if r.typ == 0 && r.b0 / 65536 == id && r.b0 / 256 % 256 == kPark && r.f24 / 4096 == x.va / 4096 && r.dt == s.dt && r.ctx == some ctx
    then { r with f48 := r.f48 ||| maskOf x.lanes, thread := min r.thread (32 * g + x.lanes.headD 0) } else r
  { s with sources := tmod s.sources (coreOf tk) fun y => { y with buf := y.buf.map widen } }
/-- Park a group: accesses join the park of accesses it has; one record for each page that is new to the park, which names the lanes
that join it in the same tick. -/
def State.parkGroup (s : State) (tk g : Nat) (kind : ParkKind) (pages : List PPage) (pc : Nat) : Nat × State :=
  match s.team tk, s.group tk g with
  | some m, some gr =>
    let old := if kind == .access then gr.parks.find? (·.kind == .access) else none
    let had := match old with | some p => p.pages.map (PPage.va · / 4096) | none => []
    let fresh := pages.filter fun (x : PPage) => !(x.va / 4096 ∈ had)
    let more := pages.filter fun (x : PPage) => x.va / 4096 ∈ had
    let join (q : PPage) : PPage :=
      { q with lanes := ((more.filter fun x => x.va / 4096 == q.va / 4096).flatMap (·.lanes)).foldl sadd q.lanes }
    let (id, s) := match old with | some p => (p.id, s) | none => s.newPark m.ctx
    let s := s.modGroup tk g fun x => { x with parks := match old with
      | some _ => x.parks.map fun p => if p.id == id && p.kind == .access then { p with pages := p.pages.map join ++ fresh } else p
      | none => x.parks ++ [{ id := id, kind := kind, pages := pages }] }
    (id, overAll more (fun s x => s.widenPark tk g m.ctx id x) (overAll fresh (fun s x => s.fault tk g x.lanes x.cause kPark x.va pc 0 id) s))
  | _, _ => (0, s)

/-! Team barriers: release and deduction (01 R39-R42). -/

/-- Role of a group of a team, and whether a barrier counts it. -/
def Bar.counts (b : Bar) (role : Nat) : Bool := b.roles.testBit role
/-- The barrier as it stands: at launch all roles, E their threads. -/
def Team.bar (m : Team) (n : Nat) : Bar :=
  (tget? m.bars n).getD { e := (m.groups.map fun x => x.2.notExited.length).foldl (· + ·) 0 }

/-- 27 R404: what the wait-for records of a team barrier hold: one for each chunk of missing threads, or one. -/
def State.barRecs (s : State) (tk n : Nat) : List Rec :=
  match s.team tk with
  | none => []
  | some m =>
    let b := m.bar n
    let missing := m.groups.flatMap fun (g, x) =>
      if b.counts x.role then (x.notExited.map (32 * g + ·)).filter (fun i => !(i ∈ b.arrived)) else []
    let waiters := m.groups.flatMap fun (g, x) =>
      (x.th.filter fun e => e.2.conds.any fun c => match c with | .bar k _ => k == n | _ => false).map (32 * g + ·.1)
    let name := match waiters with | w :: _ => w | [] => (sortNat b.arrived).headD 0
    let masks := (List.range 8).map fun c => (c, maskOf ((missing.filter (· / 64 == c)).map (· % 64)))
    let hit := masks.filter fun x => x.2 ≠ 0
    (if hit.isEmpty then [((0 : Nat), (0 : Nat))] else hit).map fun (c, mask) =>
      { s.nameRec tk 0 [] ({ typ := 1, b0 := 1 + 256 * c + 65536 * n, f32 := b.a + 2 ^ 32 * b.e, f48 := mask } : Rec) with
        thread := name, dt := 0 }
/-- A wait-for record of a team barrier, type 1 or 2. -/
def State.barRecord (s : State) (tk n typ : Nat) : State :=
  overAll (s.barRecs tk n) (fun s r => s.emit (coreOf tk) { r with typ := typ, dt := s.dt }) s

/-- The threads of a bound integer, or the thread alone (17 R282). -/
def Group.integer (g : Group) (t : Nat) : List Nat :=
  match g.limbs with
  | none => [t]
  | some l => if l == 0 then [t] else (List.range l).map (fun i => t / l * l + i)

/-- Conditions of threads are met: a thread with none left becomes Ready; in a bound group an integer does so when no
condition among its threads is left (17 R286). A Halted thread keeps its state beneath (28 R414). -/
def Group.release (m : Group) (l : List Nat) (p : WaitOn → Bool) : Group :=
  let th := m.th.map fun (t, th) =>
    (t, if t ∈ l then match th.st with | .waiting cs d => { th with st := .waiting (cs.filter fun c => !p c) d } | _ => th else th)
  let free (t : Nat) : Bool := (m.integer t).all fun u => (tget th u {}).conds.isEmpty
  { m with th := th.map fun (t, x) => (t, if x.waiting && free t then { x with st := .ready } else x) }

/-- The threads of a group that wait under a condition. -/
def Group.waitersOf (m : Group) (p : WaitOn → Bool) : List Nat :=
  (m.th.filter fun e => e.2.conds.any p).map (·.1)
/-- Every thread of a group that waits under a condition has it met. -/
def Group.meet (m : Group) (p : WaitOn → Bool) : Group := m.release (m.waitersOf p) p

/-- A condition is met that threads of clauses in progress of a team are to wait under. -/
def State.noteMet (s : State) (tk : Nat) (c : WaitOn) : State :=
  { s with issues := s.issues.map fun i => if i.tk != tk then i else
      { i with met := i.met ++ (i.waits.filter fun e => e.2.contains c).map fun e => (e.1, c) } }
/-- 01 R40: release a barrier where A = E and A > 0. -/
def State.barTest (s : State) (tk n : Nat) : State :=
  match s.team tk with
  | none => s
  | some m =>
    let b := m.bar n
    if b.a == 0 || b.a ≠ b.e then s else
    let s := s.barRecord tk n 2
    (s.modTeam tk fun m => { m with
      bars := tset m.bars n { b with phase := !b.phase, a := 0, arrived := [], e := b.e - b.pend, pend := 0 },
      groups := m.groups.map fun (g, x) => (g, x.meet fun c => c == .bar n b.phase) }).noteMet tk (.bar n b.phase)

/-- 01 R40: count an arrival; the first of a phase begins the barrier's wait. A thread that has left meanwhile is deducted as one
that arrived and then left (R41). -/
def State.barCount (s : State) (tk g t n : Nat) : State :=
  match s.team tk with
  | none => s
  | some m =>
    let b := m.bar n
    let s := s.modTeam tk fun m => { m with bars := tset m.bars n { b with
      a := b.a + 1, arrived := sadd b.arrived (32 * g + t), since := if b.a == 0 then m.wdClock else b.since
      pend := b.pend + (((m.group g).thread t).exited).toNat } }
    let s := if b.a == 0 then s.barRecord tk n 1 else s
    s.barTest tk n

/-- Has a thread an arrival at a barrier that is not counted yet (11 R204)? -/
def State.arriving (s : State) (tk g t n : Nat) : Bool :=
  s.accs.any fun x => x.2.tk == tk && x.2.g == g && t ∈ x.2.lanes && x.2.kind == .arrive n

/-- 01 R41: deduct an exited or killed thread of a group from every barrier it participates in; where its arrival is still to be
counted, the count deducts it. -/
def State.barDeduct (s : State) (tk g t : Nat) : State :=
  match s.team tk with
  | none => s
  | some m =>
    let role := (m.group g).role
    (List.range 16).foldl (fun s n =>
      match s.team tk with
      | none => s
      | some m =>
        let b := match tget? m.bars n with
          | some b => b
          -- a barrier not yet touched counts the exiting thread still
          | none => { (m.bar n) with e := (m.bar n).e + 1 }
        if !b.counts role then s
        else if s.arriving tk g t n then s.modTeam tk fun m => { m with bars := tset m.bars n b }
        else if (32 * g + t) ∈ b.arrived then s.modTeam tk fun m => { m with bars := tset m.bars n { b with pend := b.pend + 1 } }
        else (s.modTeam tk fun m => { m with bars := tset m.bars n { b with e := b.e - 1 } }).barTest tk n) s

/-! Leaving: exit and kill (01 R44; 23 R369). -/

/-- A thread becomes Exited: its barriers deduct it, and it leaves the clause that issues it. -/
def State.leave (s : State) (tk g t : Nat) : State :=
  let stepping := ((s.thread tk g t).getD {}).step
  let s := s.modThread tk g t fun th => { th with st := .exited, haltPend := false, step := false, halted := false, held := [] }
  let s := if stepping then s.modGroup tk g fun m => { m with stepped := sadd m.stepped t } else s
  let s := s.barDeduct tk g t
  { s with issues := s.issues.map fun i =>
      if i.tk == tk && i.g == g then { i with live := sdel i.live t, after := terase i.after t, waits := terase i.waits t,
                                              regang := terase i.regang t } else i }

/-- Kill one thread: record, Exited, and its team is a failed item (23 R373). -/
def State.killOne (s : State) (tk g t cause addr pc detail : Nat) : State :=
  match s.thread tk g t with
  | none => s
  | some th =>
    if th.exited then s else
    let s := s.fault tk g [t] cause kKill addr pc detail
    let s := s.modTeam tk fun m => { m with failed := true }
    s.leave tk g t

/-- 17 R287: a kill of a thread kills every live thread of its integer (cause 28). -/
def State.kill (s : State) (tk g t cause addr pc detail : Nat) : State :=
  match s.group tk g with
  | none => s
  | some m =>
    let others := (m.integer t).filter fun u => u ≠ t && (m.thread u).live
    overAll others (fun s u => s.killOne tk g u 28 0 pc 0) (s.killOne tk g t cause addr pc detail)

/-- Kills of several threads for one cause, each with its own record, and of the companions of their integers. -/
def State.killAll (s : State) (tk g : Nat) (l : List Nat) (cause pc : Nat) (addr detail : Nat → Nat := fun _ => 0) : State :=
  match s.group tk g with
  | none => s
  | some m =>
    let others := (l.flatMap m.integer).eraseDups.filter fun u => !(u ∈ l) && (m.thread u).live
    overAll others (fun s u => s.killOne tk g u 28 0 pc 0)
      (overAll l (fun s t => s.killOne tk g t cause (addr t) pc (detail t)) s)

/-- Kills of several threads, each with its own cause, address and DETAIL, and of the companions of their integers. -/
def State.killEach (s : State) (tk g pc : Nat) (l : List (Nat × Nat × Nat × Nat)) : State :=
  match s.group tk g with
  | none => s
  | some m =>
    let others := ((l.map (·.1)).flatMap m.integer).eraseDups.filter fun u => !(l.any (·.1 == u)) && (m.thread u).live
    overAll others (fun s u => s.killOne tk g u 28 0 pc 0)
      (overAll l (fun s (t, c, a, d) => s.killOne tk g t c a pc d) s)

/-! Windows, spill and link traffic (01 R34-R37; 13 R222). -/

/-- Address of a logical register of a thread in the spill stack (01 R36). -/
def spillAddr (base l t : Nat) : Nat := base + 1024 * (l / 8) + 128 * (l % 8) + 4 * t
/-- Address of a link record (13 R222). -/
def linkAddr (base d t : Nat) : Nat := base + 256 * (d - 1) + 8 * t

/-- Does spilling up to resident base `rb` stay within the stack? -/
def spillFits (size rb : Nat) : Bool := 1024 * (rb / 8) ≤ size

/-- 01 R35: the resident base after a call that leaves WB at `wb`. -/
def rbAfterCall (w ba wb rb : Nat) : Nat :=
  if wb + w ≤ rb + ba then rb else rb + roundUp (wb + w - (rb + ba)) 8
/-- 01 R35: the resident base after a return that leaves WB at `wb`. -/
def rbAfterReturn (wb rb : Nat) : Nat := if wb < rb then rb - roundUp (rb - wb) 8 else rb

/-- An access of spill or link traffic of a thread. -/
def State.spillAcc (s : State) (tk g t va : Nat) (m : Team) : Access :=
  { src := coreOf tk, kind := .spill, tk := tk, g := g, lanes := [t], ctx := m.ctx, tenant := m.tenant, va := va,
    pc := ((s.thread tk g t).getD {}).pc, dt := s.dt, entered := true }
/-- 23 R355: the refill of an address gives poison, or no longer. -/
def State.setLost (s : State) (tk g t va : Nat) (on : Bool) : State :=
  s.modThread tk g t fun th => { th with lost := if on then sadd th.lost va else sdel th.lost va }
/-- Words of spill or link traffic stored (01 R36, R37): they leave the core as other stores do (25 R381); they park, or are discarded
and recorded. -/
def State.spillStore (s : State) (tk g t va : Nat) (l : List PWord) : State :=
  match s.team tk with
  | none => s
  | some m =>
    let a : Access := { s.spillAcc tk g t va m with
      width := 4 * l.length, data := l.flatMap fun x => leBytes 4 x.val.toNat, pois := l.map (·.poison) }
    let (id, s) := s.fresh
    match s.xlate (coreOf tk) (some (laneOf g t)) m.ctx va .spill with
    | (.ok key _, s) =>
      let s := s.setLost tk g t va false
      { s with accs := tset s.accs id { a with key := key } }
    | (x, s) =>
      if isParkCause x.cause then
        let (pid, s) := (s.setLost tk g t va false).parkGroup tk g .access [{ cause := x.cause, va := va, lanes := [t] }] a.pc
        { s with accs := tset s.accs id { a with stage := .parked pid } }
      else (s.fault tk g [t] x.cause kPoison va a.pc x.detail).setLost tk g t va true

/-- What a refill finds (01 R37; 11 R195). -/
inductive Refill where
  | words (l : List PWord)
  | park (cause : Nat)
  | poison (cause detail : Nat)
deriving DecidableEq, Repr

/-- The youngest store of spill or link traffic to an address that has not finished. -/
def State.spilled (s : State) (tk g t va : Nat) : Option Access :=
  ((s.accs.filter fun x => x.2.kind == .spill && !x.2.data.isEmpty && x.2.tk == tk && x.2.g == g && x.2.lanes == [t] &&
    x.2.va == va).getLast?).map (·.2)
/-- `n` words of spill or link traffic read: from a store on its way, as poison where the store was discarded (23 R355), or from
memory. -/
def State.refillRead (s : State) (tk g t va n : Nat) : Refill × State :=
  match s.team tk with
  | none => (.words [], s)
  | some m =>
    match s.spilled tk g t va with
    | some a => (.words ((List.range n).map fun i => pw (wn (leNat ((a.data.drop (4 * i)).take 4))) (a.pois.getD i false)), s)
    | none =>
      if va ∈ ((s.thread tk g t).getD {}).lost then (.words (List.replicate n poisoned), s) else
      match s.xlate (coreOf tk) (some (laneOf g t)) m.ctx va .spill with
      | (.ok key r, s) =>
        (if s.anyMarked key (4 * n) then (if r then .park 10 else .poison 17 0)
         else .words ((List.range n).map fun i => s.word (key + 4 * i)), s)
      | (x, s) => (if isParkCause x.cause then .park x.cause else .poison x.cause x.detail, s)
/-- A register refilled into its physical slot, none where the register is dead (01 R35); a poison cause writes poison (R37). -/
def State.refill (s : State) (tk g t va : Nat) (slot : Option Nat) : State :=
  let put (s : State) (x : PWord) : State := match slot with
    | some k => s.modThread tk g t fun th => { th with v := tset th.v k x }
    | none => s
  match s.refillRead tk g t va 1 with
  | (.words l, s) => put s (l.headD (clean 0))
  | (.poison c d, s) => put (s.fault tk g [t] c kPoison va ((s.thread tk g t).getD {}).pc d) poisoned
  | (.park c, s) =>
    match s.team tk with
    | none => s
    | some m =>
      let a := s.spillAcc tk g t va m
      let (id, s) := s.fresh
      let (pid, s) := s.parkGroup tk g .access [{ cause := c, va := va, lanes := [t] }] a.pc
      { s with accs := tset s.accs id { a with dst := slot, stage := .parked pid } }

/-- 01 R35: spill the blocks between two resident bases of a thread. -/
def State.spillTo (s : State) (tk g t rb' : Nat) : State :=
  match s.group tk g with
  | none => s
  | some m =>
    let th := m.thread t
    let s := (List.range (rb' - th.rb)).foldl (fun s i =>
      let l := th.rb + i
      s.spillStore tk g t (spillAddr m.spillBase l t) [tget th.v (l % m.ba) (clean 0)]) s
    s.modThread tk g t fun th => { th with rb := rb' }
/-- 01 R35: refill the blocks between two resident bases of a thread, from the upper one down. -/
def State.refillTo (s : State) (tk g t rb' : Nat) : State :=
  match s.group tk g with
  | none => s
  | some m =>
    let th := m.thread t
    let s := (List.range (th.rb - rb')).foldl (fun s i =>
      let l := th.rb - 1 - i
      s.refill tk g t (spillAddr m.spillBase l t) (if l < rb' + m.ba then some (l % m.ba) else none)) s
    s.modThread tk g t fun th => { th with rb := rb' }

/-- 13 R222: push a link record at a depth; the core keeps four, a deeper one moves to the link area. -/
def State.pushLink (s : State) (tk g t d : Nat) (r : PDword) : State :=
  match s.group tk g with
  | none => s
  | some m =>
    let th := m.thread t
    let s := match tget? th.links (d - 4) with
      | some old =>
        if 5 ≤ d then
          let a := linkAddr m.linkBase (d - 4) t
          let s := s.spillStore tk g t a [{ val := old.val.extractLsb' 0 32, poison := old.poison },
                                          { val := old.val.extractLsb' 32 32, poison := old.poison }]
          s.modThread tk g t fun th => { th with links := terase th.links (d - 4) }
        else s
      | none => s
    s.modThread tk g t fun th => { th with links := tset th.links d r }
/-- 13 R222: the link record at a depth, from the core or from the link area; none where reading it parks the group (log 12). -/
def State.getLink (s : State) (tk g t d : Nat) : Option PDword × State :=
  match s.group tk g with
  | some gr =>
    match tget? (gr.thread t).links d with
    | some r => (some r, s)
    | none =>
      let a := linkAddr gr.linkBase d t
      let pc := (gr.thread t).pc
      match s.refillRead tk g t a 2 with
      | (.words l, s) =>
        let lo := l.getD 0 (clean 0)
        let hi := l.getD 1 (clean 0)
        let p := lo.poison || hi.poison
        (some { val := if p then 0 else hi.val ++ lo.val, poison := p }, s)
      | (.park c, s) => (none, (s.parkGroup tk g .access [{ cause := c, va := a, lanes := [t] }] pc).2)
      | (.poison c d, s) => (some { val := 0, poison := true }, s.fault tk g [t] c kPoison a pc d)
  | none => (none, s)

/-- A link record (13 R222). -/
def linkRecord (rpc code : Nat) (t : Bool) : Dword := BitVec.ofNat 64 (rpc % 2 ^ 56 + code % 16 * 2 ^ 56 + t.toNat * 2 ^ 60)
def linkRpc (r : Dword) : Nat := field r.toNat 0 56
def linkCode (r : Dword) : Nat := field r.toNat 56 4
def linkTrap (r : Dword) : Bool := r.getLsbD 60

/-- 01 R35, 13 R222, R228: what forbids a call with frame amount `f`: call depth (34) or spill overflow (35). -/
def callFails (m : Group) (th : Thread) (f : Nat) : Option Nat :=
  if th.cd == 255 then some 34
  else if m.linkSize < 256 * (th.cd + 1) then some 35
  else if !spillFits m.spillSize (rbAfterCall m.window m.ba (th.wb + f) th.rb) then some 35
  else none

/-- 01 R35, 13 R222: the call itself: link record, window, spill. -/
def State.doCall (s : State) (tk g t : Nat) (rpc code f : Nat) (trap : Bool) (target : Nat) : State :=
  match s.group tk g with
  | none => s
  | some m =>
    let th := m.thread t
    let s := s.pushLink tk g t (th.cd + 1) { val := linkRecord rpc code trap, poison := false }
    let s := s.spillTo tk g t (rbAfterCall m.window m.ba (th.wb + f) th.rb)
    s.modThread tk g t fun th => { th with wb := th.wb + f, cd := th.cd + 1, pc := target }
/-- 01 R35: the return: window and refill. -/
def State.doReturn (s : State) (tk g t f : Nat) : State :=
  match s.thread tk g t with
  | none => s
  | some th =>
    let s := s.refillTo tk g t (rbAfterReturn (th.wb - f) th.rb)
    s.modThread tk g t fun th => { th with wb := th.wb - f, links := terase th.links th.cd, cd := th.cd - 1 }

/-! Taking a trap, and returning from one (13 R228-R232). -/

/-- What a trap carries (13 R228), and the ADDR and DETAIL of its record (23 R371). -/
structure Trap where
  cause : Nat
  xpc : Nat
  widx : Nat := 0
  xaddr : Nat := 0
  xdet : PWord := { val := 0, poison := false }
  addr : Nat := 0
  detail : Nat := 0
  /-- the clause header, where it is not xpc -/ hdr : Option Nat := none
deriving DecidableEq, Repr, Inhabited

/-- The clause header that the trap's record names (23 R371). -/
def Trap.pc (x : Trap) : Nat := x.hdr.getD x.xpc

/-- 13 R228: the debug causes. -/
def isDebugCause (c : Nat) : Bool := c == 46 || c == 47 || c == 48

/-- 13 R229: XCAUSE. -/
def xcauseOf (cause widx : Nat) : Word := wn (cause % 64 + widx % 16 * 512)

/-- 23 R370, 27 R409: where an earlier word of the clause has raised a trap that is delivered after the clause, that is
the thread's one trap: the watchpoint trap then with the header as xpc, a break with its own (log 13). A companion of its integer takes
the same, with nothing of its own (17 R287). -/
def State.firstTrap (s : State) (tk g t : Nat) (x : Trap) : Trap :=
  let mates := match s.group tk g with | some m => m.integer t | none => [t]
  match s.issues.find? fun i => i.tk == tk && i.g == g && mates.any fun u => (tget? i.after u).isSome with
  | none => x
  | some i =>
    let first := mates.findSome? fun u => (tget? i.after u).map fun y => (y.1, (0 : Dword), clean 0, y.2.2.2)
    let (cause, xaddr, xdet, widx) := (tget? i.after t).getD (first.getD default)
    { cause := cause, xpc := if cause == 48 then i.pc else i.pc + 4 * (i.header.n.toNat + 1), widx := widx,
      xaddr := xaddr.toNat, xdet := xdet, hdr := some i.pc }

/-- 13 R228: one thread enters its handler, or is killed with cause 52 or 53; what earlier words of its clause wait for stands
(11 R200). In a bound integer each thread takes the trap by itself (17 R287). -/
def State.trapOne (s : State) (tk g t : Nat) (x : Trap) : State :=
  match s.team tk, s.group tk g with
  | some m, some gr =>
    let x := s.firstTrap tk g t x
    let th := gr.thread t
    let dentry := (s.core (coreOf tk)).dentry.toNat
    let entry := if isDebugCause x.cause && dentry ≠ 0 then dentry else m.hentry
    if th.h then s.killOne tk g t 52 x.addr x.pc (x.cause % 64 + th.xcause.toNat % 64 * 256)
    else if entry == 0 || (callFails gr th m.hframe).isSome then s.killOne tk g t 53 x.addr x.pc (x.cause % 64)
    else
      let s := s.fault tk g [t] x.cause kTrap x.addr x.pc x.detail
      let s := s.modThread tk g t fun th => { th with
        xpc := { val := BitVec.ofNat 64 x.xpc, poison := false }, xcause := xcauseOf x.cause x.widx,
        xaddr := BitVec.ofNat 64 x.xaddr, xdet := x.xdet, h := true, dbg := isDebugCause x.cause,
        skip := if x.cause == 47 then true else th.skip }
      let s := s.doCall tk g t x.xpc (m.hframe / 8) m.hframe true entry
      { s with issues := s.issues.map fun i =>
          if i.tk == tk && i.g == g then
            { i with live := sdel i.live t, moved := sadd i.moved t, after := terase i.after t, regang := terase i.regang t }
          else i }
  | _, _ => s

/-- 17 R287: a trap of a thread of a bound integer is raised for every live thread of it; XADDR and XDET are per thread.
`t` need not be the first. -/
def State.trap (s : State) (tk g t : Nat) (x : Trap) : State :=
  match s.group tk g with
  | none => s
  | some m =>
    let others := (m.integer t).filter fun u => u ≠ t && (m.thread u).live
    overAll others (fun s u => s.trapOne tk g u { x with xaddr := 0, xdet := clean 0 }) (s.trapOne tk g t x)

/-- A trap in every thread of a list, each integer once for the whole list: a thread of the list keeps its own values. -/
def State.trapAll (s : State) (tk g : Nat) (l : List Nat) (x : Nat → Trap) : State :=
  match s.group tk g with
  | none => s
  | some m =>
    let others := (l.flatMap m.integer).eraseDups.filter fun u => !(u ∈ l) && (m.thread u).live
    let s := overAll l (fun s t => s.trapOne tk g t (x t)) s
    overAll others (fun s u =>
      match l.find? fun t => u ∈ m.integer t with
      | some t => s.trapOne tk g u { x t with xaddr := 0, xdet := clean 0 }
      | none => s) s

/-- Where a transfer takes a thread (13 R220-R223, R232). -/
inductive Going where
  /-- the next clause -/ | next
  /-- not yet: its link record is parked -/ | again
  | kill (cause addr detail : Nat)
  | trap (x : Trap)
  | to (pc : Nat)
  | call (pc rpc code : Nat)
  | ret (pc code : Nat)
  | tret (pc code : Nat)
deriving DecidableEq, Repr, Inhabited

/-- 13 R224: the tuple at which a thread would stand. -/
def Going.tuple (x : Going) (th : Thread) (next : Nat) : Nat × Nat × Nat :=
  match x with
  | .to pc => (pc, th.wb, th.cd)
  | .call pc _ code => (pc, th.wb + 8 * code, th.cd + 1)
  | .ret pc code | .tret pc code => (pc, th.wb - 8 * code, th.cd - 1)
  | .again => (th.pc, th.wb, th.cd)
  | .next | .kill .. | .trap _ => (next, th.wb, th.cd)

/-- A word has set a thread's PC. -/
def State.setMoved (s : State) (tk g t : Nat) : State :=
  { s with issues := s.issues.map fun i => if i.tk == tk && i.g == g then { i with moved := sadd i.moved t } else i }

/-- Carry out a transfer of a thread. -/
def State.go (s : State) (tk g t header : Nat) (x : Going) : State :=
  match x with
  | .next => s
  | .again => s.setMoved tk g t
  | .kill c a d => s.kill tk g t c a header d
  | .trap y => s.trap tk g t y
  | .to pc => (s.modThread tk g t fun th => { th with pc := pc }).setMoved tk g t
  | .call pc rpc code => (s.doCall tk g t rpc code (8 * code) false pc).setMoved tk g t
  | .ret pc code =>
    ((s.doReturn tk g t (8 * code)).modThread tk g t fun th => { th with pc := pc }).setMoved tk g t
  | .tret pc code =>
    ((s.doReturn tk g t (8 * code)).modThread tk g t fun th => { th with pc := pc, h := false, dbg := false }).setMoved tk g t

/-- 13 R232: where `tret` takes a thread. -/
def State.tretGoing (s : State) (tk g t : Nat) : Going × State :=
  match s.thread tk g t with
  | none => (.next, s)
  | some th =>
    let k (c : Nat) : Nat := c + th.xcause.toNat % 64 * 256
    if th.cd == 0 then (.kill 52 0 (k 34), s) else
    match s.getLink tk g t th.cd with
    | (none, s) => (.again, s)
    | (some r, s) =>
      let x := th.xpc.val.toNat
      (if r.poison || th.xpc.poison then .kill 25 0 0
       else if !linkTrap r.val then .kill 52 0 (k 34)
       else if x % 4 ≠ 0 || 2 ^ 56 ≤ x then .kill 52 0 (k 33)
       else .tret x (linkCode r.val), s)

end Sys2Proof.Machine
end

