-- ==== Sys2Proof/Machine/Flags.lean ====
section
/-! DEFINITION. Flags and conditions: raising FSTAT (03 R68, R69), its write-one-to-clear bits (13 R236), the condition codes
of compares (09 R167, R168), the class mask (09 R166) and HSTAT (13 R230). -/

namespace Sys2Proof.Machine

/-- 03 R68: FSTAT is sticky. -/
def Thread.raise (th : Thread) (flags : Nat) : Thread := { th with fstat := th.fstat ||| wn flags }
/-- 13 R236: bits of FSTAT that are 1 in `x` are cleared. -/
def Thread.clearFstat (th : Thread) (x : Word) : Thread := { th with fstat := th.fstat &&& ~~~(x &&& 0x3F) }

/-- 09 R152: `ival`. -/
def ival (u : Bool) (x : Word) : Int := if u then (x.toNat : Int) else x.toInt
/-- 09 R152: the range of the type. -/
def irange (u : Bool) : Int × Int := if u then (0, 4294967295) else (-2147483648, 2147483647)

/-- 09 R167: a condition code over the order of two integers. -/
def intCond (cc : Nat) (a b : Int) : Bool :=
  match cc with
  | 0 => a == b | 1 => a != b | 2 => a < b | 3 => a ≤ b | 4 => b < a | _ => b ≤ a

/-- 09 R168: a condition code over two floating values. -/
def floatCond (cc : Nat) (a b : Num) : Bool :=
  let un := a.isNan || b.isNan
  match cc with
  | 0 => !un && a.cmp b == 0
  | 1 => un || a.cmp b != 0
  | 2 => !un && a.cmp b < 0
  | 3 => !un && a.cmp b ≤ 0
  | 4 => !un && 0 < a.cmp b
  | 5 => !un && 0 ≤ a.cmp b
  | 6 => un
  | _ => !un

/-- 09 R166: the class mask of a code of a floating format. -/
def classMask (g : Fmt) (c : Nat) : Nat :=
  match g.float? with
  | none => 0
  | some p =>
    let c := c % 2 ^ p.width
    let mag := c % 2 ^ (p.width - 1)
    let neg := c.testBit (p.width - 1)
    if p.inf == some mag then (if neg then 1 else 2 ^ 7)
    else if p.maxCode < mag then 2 ^ 8
    else if mag == 0 then (if neg then 2 ^ 3 else 2 ^ 4)
    else if mag < 2 ^ p.frac then (if neg then 2 ^ 2 else 2 ^ 5)
    else if neg then 2 else 2 ^ 6

/-- 13 R230: HSTAT as it reads. -/
def Thread.hstat (th : Thread) : Word := wn (th.h.toNat + 2 * th.dbg.toNat + 4 * th.skip.toNat + 8 * th.derr.toNat)
/-- 13 R230, R236: a write to HSTAT: SKIP is written, DERR is cleared by a 1, the rest is ignored. -/
def Thread.writeHstat (th : Thread) (x : Word) : Thread :=
  { th with skip := x.getLsbD 2, derr := th.derr && !x.getLsbD 3 }

end Sys2Proof.Machine
end

