-- ==== Sys2Proof/Machine/Operands.lean ====
section
/-! DEFINITION. Operand forms: participating threads (09 R149), source codes (05 R91-R94), bypass latches (05 R93), results
and their destinations (05 R83, R90; 09 R150), for every class. -/

namespace Sys2Proof.Machine

/-- 13 R220: the address of the clause after the one being issued. -/
def Issue.next (i : Issue) : Nat := i.pc + 4 * (i.header.n.toNat + 1)

/-- A trap of the word being issued (13 R228). -/
def Issue.trap (i : Issue) (cause : Nat) : Trap := { cause := cause, xpc := i.pc, widx := i.widx }

/-- 09 R149, R150, R182: the state and the participating threads, rising; a poisoned instruction predicate kills its thread
(cause 26). -/
def State.parts (s : State) (e : Option Ext) : State × List Nat :=
  match s.cur with
  | none => (s, [])
  | some i =>
    match e with
    | none => (s, i.live)
    | some x =>
      let pr (t : Nat) := ((s.thread i.tk i.g t).getD {}).predN x.p.toNat x.pn
      let s := s.killAll i.tk i.g (i.live.filter fun t => (pr t).poison) 26 i.pc
      match s.cur with
      | none => (s, [])
      | some j => (s, j.live.filter fun t => (pr t).val)

/-- How an inline constant reads where the sources are integers (05 R92). -/
def kInt (c : Nat) : Word := inlineInt c
/-- How an inline constant reads where the source format is floating (05 R92). -/
def kFloat (g : Fmt) (c : Nat) : Word := wn (inlineFloat c g)

/-- 05 R93: a latch, for a thread or for class U. -/
def Issue.latch (i : Issue) (t n : Nat) : PWord :=
  ((if i.header.cls == .U then i.slat else tget i.lat t []).getD n none).getD (clean 0)

/-- 17 R282: the limb position of a thread. -/
def Group.limbPos (g : Group) (t : Nat) : Nat := match g.limbs with | some l => if l == 0 then 0 else t % l | none => 0

/-- 05 R91: a source other than a queue register, read for a thread. -/
def State.src (s : State) (i : Issue) (konst : Nat → Word) (t c : Nat) : PWord :=
  if c < 128 then s.getR i.tk i.g t c
  else if c < 132 then i.latch t (c - 128)
  else if c == 141 then clean (wn t)
  else if c == 142 then clean (wn i.g)
  else if c == 143 then clean (wn (((s.group i.tk i.g).getD {}).limbPos t))
  else if 192 ≤ c then clean (konst c)
  else clean 0

/-- 05 R94: pop an entry of a team queue. -/
def State.popQ (s : State) (tk q : Nat) : PWord × State :=
  match s.team tk with
  | none => (clean 0, s)
  | some m => match tget m.q q [] with
    | [] => (clean 0, s)
    | x :: r => (x, s.modTeam tk fun m => { m with q := tset m.q q r })

/-- 05 R91, R94: a source, popping where it is a queue register. -/
def State.operand (s : State) (i : Issue) (konst : Nat → Word) (t c : Nat) : PWord × State :=
  if 132 ≤ c && c < 140 then s.popQ i.tk (c - 132) else (s.src i konst t c, s)

/-- 05 R94: sources in the order source A, source B, third source. -/
def State.operands (s : State) (i : Issue) (t : Nat) (codes : List (Nat × (Nat → Word))) : List PWord × State :=
  match codes with
  | [] => ([], s)
  | (c, konst) :: r =>
    let (x, s) := s.operand i konst t c
    let (xs, s) := s.operands i t r
    (x :: xs, s)

/-- 09 R148: the codes of a pair. -/
def pairCodes (c : Nat) : List Nat := if c < 128 then [c, c + 1] else [c, c]
/-- 09 R148, 11 R184: the 64-bit value of a pair code of an integer pair. -/
def State.pair (s : State) (i : Issue) (t c : Nat) : PDword :=
  if c < 128 then
    let lo := s.src i kInt t c
    let hi := s.src i kInt t (c + 1)
    let p := lo.poison || hi.poison
    { val := if p then 0 else hi.val ++ lo.val, poison := p }
  else { val := 0, poison := false }

/-- The third source code of an extension word; code 140 without one (05 R84). -/
def thirdOf (e : Option Ext) : Nat := match e with | some x => x.c.toNat | none => 140

/-! Latches (05 R93). -/

/-- Shift the latches: `fill` is the new b0 of a thread, none an empty entry. -/
def Issue.shift (i : Issue) (fill : Nat → Option PWord) : Issue :=
  if i.header.cls == .U then { i with slat := (fill 0 :: i.slat).take 4 }
  else { i with lat := i.cand.map fun t => (t, (fill t :: tget i.lat t []).take 4) }
/-- Shift in an empty entry. -/
def State.shiftEmpty (s : State) : State := s.modCur fun i => i.shift fun _ => none

/-! Results (05 R83, R90; 09 R150). -/

/-- What an instruction computes for a thread. -/
structure Res where
  val : Word := 0
  hi : Option Word := none
  flags : Nat := 0
  srs : Option Word := none
  poison : Bool := false
deriving DecidableEq, Repr, Inhabited

/-- 09 R150: a result as it stands where a source is poisoned. -/
def Res.guard (r : Res) (bad : Bool) : Res :=
  if bad || r.poison then { r with val := 0, hi := r.hi.map fun _ => 0, flags := 0, poison := true } else r

/-- The result's registers. -/
def Res.regs (r : Res) : List PWord :=
  pw r.val r.poison :: match r.hi with | some h => [pw h r.poison] | none => []

/-- Write registers from a code on. -/
def State.putRegs (s : State) (tk g t code : Nat) (l : List PWord) : State :=
  match l with
  | [] => s
  | x :: r => (s.setR tk g t code x).putRegs tk g t (code + 1) r

/-- 05 R83, R90: write the results of threads to a destination, unless W; an s destination takes the lowest thread's. -/
def State.putDest (s : State) (i : Issue) (w : Bool) (d : Nat) (rs : List (Nat × List PWord)) : State :=
  if w then s
  else if d < 64 then overAll rs (fun s r => s.putRegs i.tk i.g r.1 d r.2) s
  else match rs with | [] => s | r :: _ => s.putRegs i.tk i.g r.1 d r.2

/-- 05 R93: the results enter the latches; a thread that takes no effect enters the destination's value. -/
def State.fillLatch (s : State) (i : Issue) (d : Nat) (rs : List (Nat × List PWord)) : State :=
  s.modCur fun j => j.shift fun t =>
    match rs.find? fun r => i.header.cls == .U || r.1 == t with
    | some r => r.2.head?
    | none => some (s.getR i.tk i.g t d)

/-- Registers written and entered into the latches. -/
def State.finish (s : State) (i : Issue) (w : Bool) (d : Nat) (rs : List (Nat × List PWord)) : State :=
  (s.putDest i w d rs).fillLatch i d rs

/-- Raise a result's flags in a thread and leave its rounding state. -/
def State.raise (s : State) (i : Issue) (t : Nat) (r : Res) : State :=
  if r.flags == 0 && r.srs.isNone then s else
  s.modThread i.tk i.g t fun th => { th.raise r.flags with srs := r.srs.getD th.srs }

/-! The mould of classes U and L (09 R149, R150). -/

/-- The results of a U or L instruction: in class L one for each participating thread, all sources read before any result
is written; in class U one, computed for the lowest-numbered participating thread. -/
def State.results (s : State) (i : Issue) (k : UL) (ps : List Nat) (codes : List (Nat × (Nat → Word)))
    (op : Thread → List Word → Res) : List (Nat × Res) × State :=
  let one (s : State) (t : Nat) : Res × State :=
    let (xs, s') := s.operands i t codes
    ((op ((s.thread i.tk i.g t).getD {}) (xs.map (·.val))).guard (xs.any (·.poison)), s')
  match k, ps with
  | .L, _ => (ps.map fun t => (t, (one s t).1), s)
  | .U, [] => ([], s)
  | .U, t :: _ =>
    let (r, s) := one s t
    ([(t, r)], s)

/-- A U or L instruction with a register result. -/
def State.alu (s : State) (k : UL) (f : FR) (codes : List (Nat × (Nat → Word))) (op : Thread → List Word → Res) : State :=
  let (s, ps) := s.parts f.ext
  match s.cur with
  | none => s
  | some i =>
    let (rs, s) := s.results i k ps codes op
    let s := match k, rs with
      | .U, r :: _ => overAll ps (fun s t => s.raise i t { r.2 with srs := if t == r.1 then r.2.srs else none }) s
      | _, _ => overAll rs (fun s r => s.raise i r.1 r.2) s
    s.finish i f.w f.d.toNat (rs.map fun r => (r.1, r.2.regs))

/-- A U or L instruction with a predicate result; in class U it is written in every participating thread. -/
def State.aluPred (s : State) (k : UL) (f : FR) (codes : List (Nat × (Nat → Word))) (op : Thread → List Word → Res) :
    State :=
  let (s, ps) := s.parts f.ext
  match s.cur with
  | none => s
  | some i =>
    let (rs, s) := s.results i k ps codes op
    let put (s : State) (t : Nat) (r : Res) : State :=
      s.modThread i.tk i.g t fun th => th.setPred f.d.toNat { val := r.val == 1, poison := r.poison }
    let s := match k, rs with
      | .U, r :: _ => overAll ps (fun s t => put s t r.2) s
      | _, _ => overAll rs (fun s r => put s r.1 r.2) s
    s.shiftEmpty

/-- A predicate result. -/
def Res.bool (b : Bool) : Res := { val := if b then 1 else 0 }
/-- A result of one word. -/
def Res.word (x : Word) : Res := { val := x }

end Sys2Proof.Machine
end

