-- ==== Sys2Proof/Machine/Access.lean ====
section
/-! DEFINITION. Accesses in progress: shared memory, atomic operations, order within a thread and a core (07 R124, R129-R137;
11 R195, R196), completion, parks, samples, self-invalidation (07 R132, R145) and completion counters (11 R210). -/

namespace Sys2Proof.Machine

/-! What atomics compute (11 R192, R193). -/

/-- The value an atomic writes over `old` (none: no write), of width `w` bytes. -/
def atomNew (op : AtomOp) (w old c cmp : Nat) : Option Nat :=
  let n := 8 * w
  match op with
  | .add => some ((old + c) % 2 ^ n)
  | .min => some (if sext c n < sext old n then c else old)
  | .max => some (if sext old n < sext c n then c else old)
  | .and => some (old &&& c)
  | .or => some (old ||| c)
  | .xor => some (old ^^^ c)
  | .xchg => some c
  | .cas => if old == cmp then some c else none
  | .fadd => some (rnd (Num.add false (val .f32 old) (val .f32 c)) .f32 0 false 0).code
  | .fmin =>
    let x := val .f32 old
    let y := val .f32 c
    some (if x.isNan && y.isNan then 0x7FC00000 else if x.isNan then c else if y.isNan then old else
      if 0 < x.cmp y || (x.cmp y == 0 && !x.sign && y.sign) then c else old)
  | .fmax =>
    let x := val .f32 old
    let y := val .f32 c
    some (if x.isNan && y.isNan then 0x7FC00000 else if x.isNan then c else if y.isNan then old else
      if x.cmp y < 0 || (x.cmp y == 0 && x.sign && !y.sign) then c else old)

/-! Team shared memory (07 R118; 11 R191). -/

/-- Are words of a run of bytes poisoned? -/
def Team.shMarked (m : Team) (off n : Nat) : Bool :=
  (List.range ((off % 4 + n + 3) / 4)).any fun i => (off / 4 * 4 + 4 * i) ∈ m.shPoison
/-- Write bytes with the poison marks of their words; a word written in part keeps its mark. -/
def Team.shPut (m : Team) (off : Nat) (l : List Byte) (pois : List Bool) : Team :=
  let m := { m with sh := msets m.sh off l }
  let first := off / 4 * 4
  (List.range ((off % 4 + l.length + 3) / 4)).foldl (fun m i =>
    let w := first + 4 * i
    if pois.getD i false then { m with shPoison := sadd m.shPoison w }
    else if off ≤ w && w + 4 ≤ off + l.length then { m with shPoison := sdel m.shPoison w } else m) m

/-! Kinds of access. -/

def Access.isLoad (a : Access) : Bool := match a.kind with | .load => true | _ => false
def Access.isStore (a : Access) : Bool := match a.kind with | .store => true | _ => false
def Access.isAtom (a : Access) : Bool := match a.kind with | .atom _ => true | _ => false
/-- Stores and atomics of threads. -/
def Access.isWrite (a : Access) : Bool := a.isStore || a.isAtom
def Access.isFence (a : Access) : Bool := match a.kind with | .fence => true | _ => false
/-- What is no access to memory but waits for those before it: a fence, an arrival, a push. -/
def Access.isMark (a : Access) : Bool := match a.kind with | .fence | .arrive _ | .push _ _ | .command _ => true | _ => false
/-- Class E commands. -/
def Access.isCommand (a : Access) : Bool := match a.kind with | .command _ => true | _ => false
def Access.isCommit (a : Access) : Bool := match a.kind with | .commit _ | .close _ _ => true | _ => false
def Access.isEngine (a : Access) : Bool := match a.kind with | .engine | .count => true | _ => false
/-- Cache requests, which no later access of the thread waits for (13 R244). -/
def Access.isCache (a : Access) : Bool := match a.kind with | .prefetch _ | .writeback => true | _ => false
/-- A store of spill or link traffic (01 R36). -/
def Access.isSpill (a : Access) : Bool := (match a.kind with | .spill => true | _ => false) && !a.data.isEmpty
/-- What the quarantine of 07 R125, 25 R381, R385 holds: stores and atomics that leave the core, commits, closes, `cnt.init`, spill and
link stores, and a copy's writes to storage of the core. Prefetches leave at once, as R381 has it (log 94). -/
def Access.quarantined (a : Access) : Bool :=
  (a.isWrite && a.space != .sh) || a.isCommit || (a.isEngine && (a.src < 288 || a.space == .sh)) || a.isSpill
/-- 07 R132, R134: an acquire. -/
def Access.isAcq (a : Access) : Bool := (a.isLoad && a.order == 1) || (a.isAtom && (a.order == 1 || a.order == 3))
/-- 07 R133, R134: a release. -/
def Access.isRel (a : Access) : Bool := (a.isStore && a.order == 2) || (a.isAtom && 2 ≤ a.order)
def Access.parked (a : Access) : Bool := match a.stage with | .parked _ => true | _ => false
/-- The cause that a limb load's value brings back. -/
def Access.limbCause (a : Access) : Nat := if a.cause ≠ 0 then a.cause else if !a.vpois then 0 else if a.recoverable then 10 else 17
/-- A load as it is before it has left its core. -/
def Access.again (a : Access) : Access :=
  { a with stage := .core, returned := false, value := [], vpois := false, fill := [], cause := 0, drop := false }
/-- Do two accesses stand in one thread's program order? -/
def Access.shares (a b : Access) : Bool := a.tk == b.tk && a.g == b.g && a.lanes.any (· ∈ b.lanes)
/-- Do two accesses touch one 32-bit word? -/
def Access.meets (a b : Access) : Bool :=
  a.space == b.space && (a.space != .sh || a.tk == b.tk) &&
    decide (a.key / 4 ≤ (b.key + b.width - 1) / 4 ∧ b.key / 4 ≤ (a.key + a.width - 1) / 4)

/-- Accesses with a smaller key: those issued before. -/
def State.before (s : State) (id : Nat) : List (Nat × Access) := s.accs.filter fun x => x.1 < id

/-! Order (07 R124, R129-R135; 11 R196; 13 R244). -/

/-- 11 R196: has an earlier access of the thread in the same clause parked? -/
def State.behindPark (s : State) (id : Nat) (a : Access) : Bool :=
  !a.isSpill && (s.before id).any fun x => x.2.shares a && x.2.parked && x.2.clause == a.clause
/-- Is an access held by an earlier one of its thread: an acquire, a fence, a park in its clause, a cinv of its line? -/
def State.held (s : State) (id : Nat) (a : Access) : Bool :=
  (!a.isMark && s.behindPark id a) ||
  ((s.before id).any fun x =>
    let b := x.2
    b.shares a && !a.isMark && (b.isAcq || (b.isFence && (b.order != 2 || a.isWrite)))) ||
  (a.isLoad && a.space == .g && s.ops.any fun x => x.2.tk == a.tk && x.2.g == a.g && x.2.cinv.any fun r =>
    r.1 ∈ a.lanes && r.2.1 ≤ a.va / 128 && a.va / 128 ≤ r.2.2)

/-- 07 R133, R130: the waits of a release at a scope: loads of the thread, and the stores and atomics that the core issued
before, to lines of the scope's reach. -/
def State.releaseReady (s : State) (id : Nat) (a : Access) : Bool :=
  (s.before id).all fun x =>
    let b := x.2
    !((b.isLoad && !b.returned && b.shares a) ||
      (b.space == .sh && !b.isMark && b.shares a) ||
      (a.scope < 3 && b.isWrite && !b.entered && b.shares a) ||
      (3 ≤ a.scope && b.isWrite && b.space != .sh && b.src == a.src &&
        (if isRemote b.key then 5 ≤ a.scope else if isHost b.key then 6 ≤ a.scope else true)))

/-- 11 R204, R212, R213: the earlier accesses of the thread have been performed in the core, its earlier fences are over, and its earlier
arrivals and pushes, and those pushes of its clause, are made. -/
def State.coreReady (s : State) (id : Nat) (a : Access) : Bool :=
  (s.before id).all fun x =>
    let b := x.2
    !(b.shares a && ((b.isLoad && !b.returned) || (b.space == .sh && !b.isMark) || (b.parked && !b.isSpill) ||
      (b.isWrite && !b.entered) || b.isFence || (match b.kind with | .arrive _ | .push _ _ => true | _ => false))) &&
    !(b.tk == a.tk && b.g == a.g && b.clause == a.clause &&
      match a.kind, b.kind with | .push _ _, .push _ _ => true | _, _ => false)

/-- Earlier accesses of the thread to a word of an access. -/
def State.sameWord (s : State) (id : Nat) (a : Access) : List Access :=
  ((s.before id).filter fun x => x.2.shares a && x.2.meets a && !x.2.isMark && !x.2.isCache && x.2.kind != .spill).map (·.2)
/-- 07 R129, 11 R196: every earlier access of the thread to a word of it has completed, so that it may leave the core. -/
def State.wordFree (s : State) (id : Nat) (a : Access) : Bool := (s.sameWord id a).all (·.returned)
/-- 07 R124, R129: a load may take its value in the core: earlier loads and atomics of the thread to its words have completed,
and earlier stores have entered. -/
def State.localFree (s : State) (id : Nat) (a : Access) : Bool :=
  (s.sameWord id a).all fun b => b.returned || (b.isStore && b.entered && !b.parked)
/-- 07 R124, R126; 12 R217: the writes of a core to one word reach its slice in the order in which they entered. -/
def State.leavesInOrder (s : State) (id : Nat) (a : Access) : Bool :=
  s.accs.all fun (k, b) => !(k != id && b.src == a.src && b.isWrite && b.space != .sh && b.entered && b.enterNo < a.enterNo && b.meets a &&
    match b.stage with | .core | .net _ _ | .retracted => true | _ => false)
/-- 19 R326, R328, R332: every earlier store and atomic of the threads of a command has been acknowledged. -/
def State.threadsAcked (s : State) (id : Nat) (a : Access) : Bool :=
  (s.before id).all fun x => !(x.2.shares a && x.2.isWrite && x.2.space != .sh)

/-- 07 R122, R124; 11 R187, R216: the writes of a core to one word enter in the order in which they were issued, so that those of one
instruction enter in lane order. -/
def State.entersInOrder (s : State) (id : Nat) (a : Access) : Bool :=
  (s.before id).all fun x => !(x.2.isWrite && !x.2.entered && x.2.src == a.src && x.2.space != .sh && x.2.stage == .core && x.2.meets a)
/-- 07 R124: a load waits for the atomics that its core has issued to its word: those before it, and those of other threads that entered
while it was held and that nothing holds back in turn (log 95). -/
def State.atomFree (s : State) (id : Nat) (a : Access) : Bool :=
  !a.isLoad || s.accs.all fun x => !(x.2.isAtom && x.2.src == a.src && x.2.meets a &&
    (x.1 < id || (x.2.entered && !x.2.shares a && s.wordFree x.1 x.2 && s.leavesInOrder x.1 x.2)))
/-- 07 R122, R131: team shared memory performs a thread's accesses in program order, and those of one instruction to a word in lane
order. -/
def State.sharedFree (s : State) (id : Nat) (a : Access) : Bool :=
  (s.before id).all fun x => !(x.2.space == .sh && !x.2.isMark && x.2.tk == a.tk && (x.2.shares a || (x.2.op == a.op && x.2.meets a)))

/-- 07 R132, R145: the core's L1 keeps the words it owns, and fills on their way are not installed. -/
def State.selfInvalidate (s : State) (core : Nat) : State :=
  let s := s.modCore core fun c => { c with
    l1 := (c.l1.map fun e => (e.1, { e.2 with valid := e.2.valid.filter (· ∈ e.2.owned) })).filter fun e => !e.2.valid.isEmpty }
  { s with accs := s.accs.map fun (id, a) =>
      (id, match a.stage with | .back _ => if a.src == core then { a with drop := true } else a | _ => a) }
/-- 07 R142, 13 R244: the same for the copies of some lines only; every fill on its way is dropped all the same (08 R145). -/
def State.selfInvalidateIn (s : State) (core : Nat) (inRange : Nat → Bool) : State :=
  let s := s.modCore core fun c => { c with
    l1 := (c.l1.map fun e => (e.1, if inRange e.1 then { e.2 with valid := e.2.valid.filter (· ∈ e.2.owned) } else e.2)).filter
      fun e => !e.2.valid.isEmpty }
  { s with accs := s.accs.map fun (id, a) =>
      (id, match a.stage with
        | .back _ => if a.src == core then { a with drop := true } else a
        | _ => a) }

/-- 07 R142: the physical lines that a region's virtual lines stand for now. -/
def State.spanLines (s : State) (core ctx : Nat) (r : Span) : List Nat :=
  (List.range r.count).filterMap fun k => match s.xlateDie (dieOf core) ctx (128 * (r.first + k)) .write with
    | .ok key _ => some (key / 128)
    | _ => none

/-! Completion. -/

/-- A part of a slot-assigning instruction is done. -/
def State.partDone (s : State) (op : Option Nat) : State :=
  match op with
  | none => s
  | some k => { s with ops := tmod s.ops k fun o => { o with left := o.left - 1 } }

/-- 01 R31: a scalar register takes a write of a clause, but for one granted before the clause that wrote it last. -/
def State.setSFrom (s : State) (tk g n clause : Nat) (x : PWord) : State :=
  s.modGroup tk g fun m => if tget m.sLast n 0 ≤ clause then { m with s := tset m.s n x, sLast := tset m.sLast n clause } else m
/-- Write words of a clause to destination registers as they stood named at issue: logical registers of a window base. -/
def State.fillRegs (s : State) (tk g t wb clause code : Nat) (l : List PWord) : State :=
  match l with
  | [] => s
  | x :: r =>
    let s := if code < 64 then
        s.modGroup tk g fun m =>
          { m with th := tmod m.th t fun th => { th with v := tset th.v ((wb + code) % m.ba) x }
                   fs := m.fs.map fun e => (e.1, e.2.touch (wb + code) x.poison) }
      else s.setSFrom tk g (code - 64) clause x
    s.fillRegs tk g t wb clause (code + 1) r

/-- 11 R185: the registers of a value of `n` bytes. -/
def valueRegs (v : List Byte) (n : Nat) (pois : Bool) : List PWord :=
  let x := leNat (v.take n)
  (List.range (max 1 (n / 4))).map fun i => pw (wn (x / 2 ^ (32 * i))) pois

/-- Write an access's value to its destination: to a thread that is Exited it is discarded (01 R44). -/
def State.deliver (s : State) (a : Access) (v : List Byte) (pois : Bool) : State :=
  match a.dst, a.lanes with
  | some d, t :: _ =>
    if a.lanes.all fun t => ((s.thread a.tk a.g t).getD {}).exited then s
    else s.fillRegs a.tk a.g t a.wb a.clause d (valueRegs v a.width pois)
  | _, _ => s

/-- 27 R407: the two records of a sample, the only ones with a place for the thread's tag (13 R245; log 97). -/
def State.sample (s : State) (a : Access) : State :=
  if !a.sampled then s else
  let kind := if a.isLoad then (if a.limb.isSome then 3 else 0) else if a.isAtom then 2 else if a.limb.isSome then 4 else 1
  let (n, s) := s.draw
  let x := Config.sampleTimes n
  let nm (r : Rec) : Rec := s.nameAcc a r
  let s := s.emit a.src (nm { typ := 3, b0 := a.tag.toNat % 2 ^ 16 + kind * 2 ^ 16 + a.scope * 2 ^ 24, f24 := a.va, f32 := a.pc, f48 := a.key % 2 ^ 48 })
  s.emit a.src (nm { typ := 3, b0 := min (s.dt - a.born) 65535, f24 := a.cid, f32 := x % 2 ^ 64, f48 := x / 2 ^ 64 % 2 ^ 48, flags := 1 })

/-- An access ends, and with it the entry that it left in the core from which it was retracted (21 R437). -/
def State.dropAcc (s : State) (id : Nat) (a : Access) : State :=
  let rec go (n : Nat) (l : Tbl Access) (g : Option Nat) : Tbl Access :=
    match n, g with
    | n + 1, some g => go n (terase l g) ((tget? l g).bind (·.ghost))
    | _, _ => l
  { s with accs := go s.accs.length (terase s.accs id) a.ghost }
/-- An access is finished: its sample, its part of its instruction, and its end. -/
def State.finishAcc (s : State) (id : Nat) (a : Access) : State :=
  let s := s.sample a
  let s := s.dropAcc id a
  s.partDone a.op

/-- 23 R355: a word of spill or link traffic fails: its refill gives poison, or its refilled register does. -/
def State.spillFails (s : State) (id : Nat) (a : Access) : State :=
  let t := a.lanes.headD 0
  if !a.data.isEmpty then
    if s.accs.any fun x => id < x.1 && x.2.isSpill && x.2.shares a && x.2.va == a.va then s else s.setLost a.tk a.g t a.va true
  else match a.dst with
  | some slot => s.modThread a.tk a.g t fun th => { th with v := tset th.v slot poisoned }
  | none => s
/-- 11 R190, R195: a poison cause of an access: recorded; the result is poison, or the access is discarded. An acquire load has its
effect all the same, and a sample its records (13 R245). -/
def State.poisonAcc (s : State) (id : Nat) (a : Access) (cause detail : Nat) : State :=
  let s := s.fault a.tk a.g a.lanes cause kPoison a.va a.pc detail
  match a.kind with
  | .spill => { s.spillFails id a with accs := terase s.accs id }
  | _ =>
    let s := s.deliver a [] true
    let s := if a.isLoad && a.isAcq && 3 ≤ a.scope then s.selfInvalidate a.src else s
    s.finishAcc id a

/-- 29 R424: another device admits an access of this device's tenant to a frame. -/
def State.admitted (s : State) (a : Access) : Bool :=
  !isRemote a.key || Config.remoteGrant s.devno a.tenant (a.key / 4096)
/-- What stops an access at its slice: not granted (11), open accumulator (16); data on a recoverable page that are poisoned come first
(11 R195). -/
def State.sliceCause (s : State) (a : Access) : Nat :=
  if (a.isLoad || a.isAtom) && a.recoverable && s.anyMarked a.key a.width then 0
  else if !s.admitted a then 11 else if (s.line (a.key / 128)).acc.isSome then 16 else 0
/-- The cause that an access with a translation would find at its slice, poisoned data included. -/
def State.slicePeek (s : State) (a : Access) : Nat :=
  let c := s.sliceCause a
  if c ≠ 0 || !a.isLoad || !s.anyMarked a.key a.width then c else if a.recoverable then 10 else 17

/-- 11 R196: park accesses of a group, which are held as they stand, and with a limb the rest of its integer (17 R297); `l` gives key
and cause. -/
def State.parkAccs (s : State) (tk g : Nat) (l : List (Nat × Nat)) : State :=
  match l with
  | [] => s
  | (id0, _) :: _ =>
    let acc (id : Nat) : Access := (tget? s.accs id).getD { src := 0, kind := .load }
    let keys := (l.map fun x => ((acc x.1).va / 4096, x.2)).eraseDups
    let pages := keys.map fun (pg, cause) =>
      let mine := l.filter fun x => (acc x.1).va / 4096 == pg && x.2 == cause
      { cause := cause, va := (acc (mine.headD (id0, 0)).1).va,
        lanes := sortNat ((mine.flatMap fun x => (acc x.1).lanes).eraseDups) : PPage }
    let (pid, s) := s.parkGroup tk g .access pages (acc id0).pc
    let mates (b : Access) : Bool := b.stage == .core && b.limb.isSome && l.any fun x => (acc x.1).op == b.op && (acc x.1).limb == b.limb
    { s with accs := s.accs.map fun (k, b) => (k, if l.any (·.1 == k) || mates b then { b with stage := .parked pid } else b) }

/-! Values that a load of a core sees (07 R124). -/

/-- Stores of a core that its loads see, youngest last: entered, and not a later one of the load's own thread. -/
def State.ownStores (s : State) (id : Nat) (a : Access) : List Access :=
  sortBy (fun x y => decide (x.enterNo ≤ y.enterNo)) ((s.accs.filter fun x => x.2.isStore && x.2.entered && x.2.src == a.src && x.2.space == a.space &&
    !(id < x.1 && x.2.shares a)).map (·.2))
/-- Bytes at a key as stores of the core overlay them. -/
def overlay (l : List Access) (key : Nat) (v : List Byte) : List Byte :=
  l.foldl (fun v b => v.zipIdx.map fun (x, i) => if b.key ≤ key + i && key + i < b.key + b.width then b.data.getD (key + i - b.key) 0 else x) v
/-- The poison marks of words as stores of the core overlay them: a word stored whole is clean. -/
def overlayPois (l : List Access) (word : Nat) (p : Bool) : Bool :=
  l.foldl (fun p b => if b.key ≤ word && word + 4 ≤ b.key + b.width then false else p) p
/-- A line's words as stores of the core overlay them. -/
def overlayLine (l : List Access) (line : Nat) (ws : List PWord) : List PWord :=
  ws.zipIdx.map fun (x, i) =>
    let k := 128 * line + 4 * i
    pw (wn (leNat (overlay l k (leBytes 4 x.val.toNat)))) (overlayPois l k x.poison)

/-- A usable L1 copy that holds every word of an access (07 R123, R132): none where an acquire must read at the slice. -/
def State.l1Hit (s : State) (a : Access) : Option L1Line :=
  match tget? (s.core a.src).l1 (a.key / 128) with
  | none => none
  | some c =>
    let ws := (List.range ((a.key % 4 + a.width + 3) / 4)).map fun i => a.key % 128 / 4 + i
    if a.space == .g && s.dt < c.le && ws.all (· ∈ c.valid) && (!(a.isAcq && 3 ≤ a.scope) || ws.all (· ∈ c.owned)) then some c
    else none
/-- 07 R124: does one unacknowledged store of its core cover every word of a load, which may then take its value in the core? -/
def State.forwarded (s : State) (id : Nat) (a : Access) : Bool :=
  !(a.isAcq && 3 ≤ a.scope) && (s.ownStores id a).any fun b =>
    b.key ≤ a.key / 4 * 4 && (a.key + a.width + 3) / 4 * 4 ≤ b.key + b.width

/-! What happens inside a core (07 R118, R125, R131, R135). -/

/-- A shared-memory access performed: load, store or atomic. -/
def State.performShared (s : State) (id : Nat) (a : Access) : State :=
  match s.team a.tk with
  | none => s.finishAcc id a
  | some m =>
    let old := mgets m.sh a.key a.width
    let bad := m.shMarked a.key a.width
    let s := match a.kind with
      | .load => s.deliver a old bad
      | .store => s.modTeam a.tk fun m => m.shPut a.key a.data a.pois
      | .atom op =>
        if a.pois.contains true then
          (s.modTeam a.tk fun m => m.shPut a.key old (List.replicate ((a.width + 3) / 4) true)).deliver a [] true
        else if bad then s.deliver a [] true
        else
          let s := match atomNew op a.width (leNat old) (leNat a.data) (leNat a.cmp) with
            | some v => s.modTeam a.tk fun m => m.shPut a.key (leBytes a.width v) []
            | none => s
          s.deliver a old false
      | _ => s
    (if bad && !a.isStore && !(a.isAtom && a.pois.contains true) then s.fault a.tk a.g a.lanes 17 kPoison a.va a.pc 0 else s).finishAcc id a

/-- 07 R125: a store or atomic enters: a store updates the L1 copy, an atomic drops it. -/
def State.enter (s : State) (id : Nat) (a : Access) : State :=
  let (n, s) := s.fresh
  let s := s.modAcc id fun a => { a with entered := true, enterNo := n }
  let line := a.key / 128
  if a.isAtom then s.modCore a.src fun c => { c with l1 := terase c.l1 line }
  else if a.isStore then s.modCore a.src fun c => { c with l1 := tmod c.l1 line fun x => { x with words := overlayLine [a] line x.words } }
  else s

/-- One pass over the accesses that wait in a core, oldest first: fences whose waits are met (a relaxed atomic is no prior load of an
acquire fence, log 96), shared-memory accesses, and stores and atomics that no earlier access holds any more. -/
def State.settle (s : State) (core : Nat) : State :=
  overAll (s.accs.filter fun x => x.2.src == core).unzip.1 (fun s id =>
    match tget? s.accs id with
    | none => s
    | some a =>
      if a.stage != .core || a.isCommand || s.held id a then s
      else if a.isFence then
        let loads := (s.before id).all fun x => !(x.2.isLoad && !x.2.returned && x.2.shares a)
        let ok := if a.order == 1 then loads else if a.order == 2 then s.releaseReady id a else loads && s.releaseReady id a
        if !ok then s
        else
          let s := { s with accs := terase s.accs id }
          if a.order != 2 && 3 ≤ a.scope then s.selfInvalidate core else s
      else if a.isMark then
        if !s.coreReady id a then s
        else
          let s := { s with accs := terase s.accs id }
          match a.kind with
          | .arrive n => match a.lanes with
            | t :: _ => s.barCount a.tk a.g t n
            | [] => s
          | .push q x => s.modTeam a.tk fun m => { m with q := tset m.q q (tget m.q q [] ++ [x]) }
          | _ => s
      else if a.space == .sh then
        if (!a.isRel || s.releaseReady id a) && s.sharedFree id a then s.performShared id a else s
      else if a.quarantined && !a.entered && (!a.isRel || s.releaseReady id a) &&
          (!a.isEngine || s.threadsAcked id a) && (!a.isWrite || s.entersInOrder id a) then s.enter id a
      else s) s

/-! Completion counters (11 R210). -/

/-- A counter's value, poison, or the cause of its read. -/
inductive CcRead where
  | value (v : Nat)
  | poison (cause detail : Nat)
  | park (cause : Nat)
deriving DecidableEq, Repr

/-- 11 R210, R195: read a counter at its home slice, for a lane of a core. -/
def State.ccRead (s : State) (core lane ctx va : Nat) : CcRead × State :=
  if 2 ^ 56 ≤ va then (.poison 13 0, s) else
  match s.xlate core (some lane) ctx va .read with
  | (.ok key r, s) =>
    if va % 8 ≠ 0 then (.poison 15 0, s)
    else if s.anyMarked key 8 && r then (.park 10, s)
    else if (s.line (key / 128)).acc.isSome then (.poison 16 0, s)
    else if s.anyMarked key 8 then (.poison 17 0, s)
    else (.value (s.dword key), s)
  | (x, s) => (if isParkCause x.cause then .park x.cause else .poison x.cause x.detail, s)

/-- Test a `cc.wait` of a thread: is it met (its acquire is then applied)? A read that parks parks the group, a poisoned
value kills. An acquire, fence or access to the counter before it holds the read (07 R129, R132, R135). -/
def State.ccCheck (s : State) (tk g t va : Nat) (target : Dword) (scope pc : Nat) : Bool × State :=
  match s.team tk with
  | none => (false, s)
  | some m =>
    let blocked := s.accs.any fun x =>
      x.2.tk == tk && x.2.g == g && t ∈ x.2.lanes &&
        (x.2.isAcq || (x.2.isFence && x.2.order != 2) || (!x.2.isMark && x.2.space == .g && x.2.va / 8 == va / 8))
    if (m.group g).parked || blocked then (false, s) else
    match s.ccRead (coreOf tk) (laneOf g t) m.ctx va with
    | (.value v, s) =>
      if v < target.toNat then (false, s) else (true, if 3 ≤ scope then s.selfInvalidate (coreOf tk) else s)
    | (.poison c d, s) => (false, (s.fault tk g [t] c kPoison va pc d).kill tk g t 26 0 pc 0)
    | (.park c, s) => (false, (s.parkGroup tk g .access [{ cause := c, va := va, lanes := [t] }] pc).2)

/-- Test the counters a Waiting thread waits for. -/
def State.ccTest (s : State) (tk g t : Nat) : State :=
  overAll ((s.thread tk g t).getD {}).conds (fun s c =>
    match c, s.thread tk g t with
    | .cc va target scope, some th =>
      if !th.waiting then s else
      let (met, s) := s.ccCheck tk g t va target scope th.pc
      if met then s.modGroup tk g fun x => x.release [t] (· == c) else s
    | _, _ => s) s

/-- Test every thread that waits in `cc.wait` on a counter in a line, or on any where `line` is none, on all cores. -/
def State.ccTestAll (s : State) (line : Option Nat) : State :=
  let ws := s.teams.flatMap fun (tk, m) => m.groups.flatMap fun (g, x) => x.th.filterMap fun (t, th) =>
    let hit := th.conds.any fun c => match c with
      | .cc va _ _ => match line, s.xlateDie (dieOf (coreOf tk)) m.ctx va .read with
        | none, _ => true
        | some l, .ok key _ => key / 128 == l
        | some _, _ => false
      | _ => false
    if hit then some (tk, g, t) else none
  overAll ws (fun s w => s.ccTest w.1 w.2.1 w.2.2) s

end Sys2Proof.Machine
end

