-- ==== Sys2Proof/Machine/Homes.lean ====
section
/-! DEFINITION. Time (00 R10). Home slices: transits and their order (07 R436; 12 R217), a write performed at a line with its
revocations and GWCT (07 R126, R127), leases (R123), engine writes (07 R141) and interrupt messages (29 R422). -/

namespace Sys2Proof.Machine

/-! Time (00 R10), with the states that a replay goes back to (25 R380). -/

/-- The state of a core as it stands. -/
def State.checkpoint (s : State) (core : Nat) : Checkpoint :=
  let mine (tk : Nat) : Bool := coreOf tk == core && tk < 4608
  let copies := s.copies.filter fun c => match c.2.team with | some tk => mine tk | none => false
  { dt := s.dt, core := s.core core, teams := s.teams.filter fun e => mine e.1, issues := s.issues.filter fun i => mine i.tk
    ops := s.ops.filter fun o => mine o.2.tk, copies := copies
    accs := s.accs.filter fun x => x.2.src == core && mine x.2.tk }
/-- Keep the checkpoints that a report may still need. -/
def pruneChecks (dt : Nat) (l : List Checkpoint) : List Checkpoint := l.filter fun c => dt ≤ c.dt + Config.quarantine
/-- The cores with teams keep how they stand, and those that have lost theirs how they stood. -/
def State.keepChecks (s : State) : State :=
  let cores := (s.teams.map fun e => coreOf e.1).eraseDups
  let past := (s.checks.filter fun e => !cores.contains e.1).map fun e => (e.1, pruneChecks s.dt e.2)
  { s with checks := (past.filter fun e => !e.2.isEmpty) ++ cores.map fun c => (c, pruneChecks s.dt (tget s.checks c []) ++ [s.checkpoint c]) }
/-- 13 R239: does the watchdog of a team stand still? -/
def Team.anyHalted (m : Team) : Bool := m.groups.any fun e => e.2.th.any fun t => t.2.halted
/-- `n` ticks pass: a pending snapshot's DT is not passed over before its records are made (27 R405). -/
def State.pass (s : State) (n : Nat) : State :=
  let n := if s.snapPend && !s.snapTaken && s.dt < s.snapdt.toNat then min n (s.snapdt.toNat - s.dt) else n
  if n == 0 then s else
  let s := { s with dt := s.dt + n
                    teams := s.teams.map fun (tk, (m : Team)) => (tk, if m.anyHalted then m else { m with wdClock := m.wdClock + n })
                    recent := s.recent.filter fun e => s.dt + n ≤ e.1 + Config.quarantine }
  s.keepChecks

/-! Home slices. -/

/-- DT at which something sent now by a source reaches a key's home slice, or comes back: at least the bound of 07 R436, and
a free number of ticks more (log 3). -/
def State.transit (s : State) (src key : Nat) : Nat × State :=
  let (n, s) := s.draw
  (s.dt + routeMin src key + Config.transit n, s)

/-- 07 R123: the lease length of a key's window; another device's own (log 3). -/
def State.leaseLen (s : State) (key : Nat) : Nat :=
  if isRemote key then min 4096 (max 64 (Config.remoteLease (key / 2 ^ 50))) else if isHost key then s.llhost else s.llhbm

/-- The words of its line that a run of bytes touches. -/
def wordsOf (key n : Nat) : List Nat := (List.range ((key % 4 + n + 3) / 4)).map fun i => key % 128 / 4 + i

/-- The slice of an accumulator, and how many are open there. -/
def State.openAt (s : State) (key : Nat) : Nat :=
  (s.accums.filter fun e => s.sliceSource (128 * e.1) == s.sliceSource key).length
/-- Contributions in a slice's buffer. -/
def State.bufferedAt (s : State) (key : Nat) : Nat :=
  ((s.accums.filter fun e => s.sliceSource (128 * e.1) == s.sliceSource key).map (·.2.waiting.length)).foldl (· + ·) 0
/-- 15 R274: is a tile open, or can it be opened? -/
def State.canOpen (s : State) (key : Nat) : Bool := (tget? s.accums (key / 128)).isSome || s.openAt key < 32

/-- 12 R217: accesses that have reached a line, in the order the slice takes them: arrival, port, order sent. A commit or close that
waits for an accumulator slot (15 R274) holds nothing behind it. -/
def State.arrivals (s : State) (line : Nat) : List (Nat × Nat × Nat) :=
  s.accs.filterMap fun (id, a) => match a.stage with
    | .net t p => if a.key / 128 == line && a.space != .sh && t ≤ s.dt && !(a.isCommit && !s.canOpen a.key) then some (t, p, id) else none
    | _ => none
/-- 29 R427: is the link that reaches a key usable? -/
def State.linkUp (s : State) (key : Nat) : Bool :=
  if isRemote key then s.readyReg.getLsbD 11 else !isHost key || s.readyReg.getLsbD 10
/-- 19 R325; 29 R425, R427: is the link that reaches a peer of the collectives usable? -/
def State.peerUp (s : State) (peer : Nat) : Bool := s.readyReg.getLsbD (if peer < 2 ^ 15 then 11 else 12)
/-- Is an access the first of its line to be taken, by a slice that takes any (27 R397)? -/
def State.isFirst (s : State) (id : Nat) (a : Access) : Bool :=
  s.linkUp a.key && s.roomAt (s.sliceSource a.key) && match a.stage with
  | .net t p => t ≤ s.dt && (s.arrivals (a.key / 128)).all fun (t', p', id') =>
      id' == id || t < t' || (t == t' && (p < p' || (p == p' && id < id')))
  | _ => false
/-- 12 R217: may the slice perform a write to a line in this tick? -/
def State.lineFree (s : State) (line : Nat) : Bool := (s.line line).lastWrite != some s.dt
/-- Lines that a home slice of 4 MiB stores beside its share of the scratchpad (00 R2; 07 R119). -/
def State.sliceLines (s : State) : Nat := 32768 - s.spsize / 2 ^ 21 * 512
/-- Does a slice keep data storage for a line? -/
def Line.stored (l : Line) : Bool := l.present && !l.zero
/-- 00 R2, 07 R121: `n` lines of the slice of a key at most keep their data storage; the others leave (log 92). -/
def State.fitSlice (s : State) (key n : Nat) : State :=
  let mine := s.lines.filter fun e => e.2.stored && !isScratch (128 * e.1) && !isRemote (128 * e.1) &&
    s.sliceSource (128 * e.1) == s.sliceSource key
  overAll ((mine.filter fun e => e.2.acc.isNone).take (mine.length - n)) (fun s (l, x) =>
    s.setLine l { x with present := false, zero := false, dirty := false }) s
/-- Room for one more line at its home slice. Another device's lines are homed there (07 R120). -/
def State.makeRoom (s : State) (line : Nat) : State :=
  if (s.line line).stored || isRemote (128 * line) || isScratch (128 * line) then s else s.fitSlice (128 * line) (s.sliceLines - 1)
/-- 07 R119: every slice keeps what it has room for. -/
def State.fitSlices (s : State) : State := overAll (tkeys s.lines) (fun s l => s.fitSlice (128 * l) s.sliceLines) s

/-- 07 R127: the revocations that a write to words of a line causes: one message to each former owner but the writer. -/
def State.revokesOf (s : State) (key : Nat) (words : List Nat) (writer : Option Nat) : List Revoke × State :=
  let l := s.line (key / 128)
  let owners := ((words.filterMap fun w => tget? l.owners w).eraseDups).filter fun c => some c != writer
  owners.foldl (fun (rs, s) c =>
    let (t, s) := s.transit c key
    let (n, s) := s.fresh
    (rs ++ [{ core := c, line := key / 128, perf := n, words := words.filter fun w => tget? l.owners w == some c,
              applied := false, arrive := t }], s)) ([], s)

/-- 07 R121: are the 128 bytes of a line all zero? -/
def State.zeroLine (s : State) (line : Nat) : Bool := (s.bytes (128 * line) 128).all (· == 0) && !s.anyMarked (128 * line) 128

/-- 07 R121: a line is brought to its home slice for a read: with its zero flag, or with data storage. -/
def State.bringIn (s : State) (line : Nat) : State :=
  let zero := s.zeroLine line
  let s := if zero then s else s.makeRoom line
  s.setLine line { s.line line with present := true, zero := zero }
/-- 07 R126, R127, 11 R191, 25 R395: a write performed at its home slice: bytes, poison marks of whole words, owners (a store
by a core registers it), dirty marks. Answers the revocations sent and the GWCT. -/
def State.writeAt (s : State) (key : Nat) (data : List Byte) (marks : List Bool) (writer : Option Nat) (registers : Bool) :
    List Revoke × Nat × State :=
  let words := wordsOf key data.length
  let cached := !isScratch key
  let gwct := if cached then max s.dt (s.line (key / 128)).maxLE else s.dt
  let (revs, s) := if cached then s.revokesOf key words writer else ([], s)
  let s := s.putBytes key data
  let s := (List.range words.length).foldl (fun s i =>
    if marks.getD i false then s.mark (key / 4 * 4 + 4 * i) true else s) s
  let zero := s.zeroLine (key / 128)
  let s := if zero then s else s.makeRoom (key / 128)
  let l := s.line (key / 128)
  let owners := words.foldl (fun o w => match writer with
    | some c => if registers then tset o w c else if tget? o w == some c then o else terase o w
    | none => terase o w) l.owners
  let s := s.setLine (key / 128) { l with present := true, dirty := true, zero := zero,
                                          owners := if cached then owners else [], lastWrite := some s.dt }
  (revs, gwct, s.dirtyFrame key)

/-- The line's 32 words with their marks, as a read at the slice finds them (07 R121). -/
def State.lineWords (s : State) (line : Nat) : List PWord := (List.range 32).map fun i => s.word (128 * line + 4 * i)
/-- The words of a line that a core owns. -/
def State.ownedBy (s : State) (line core : Nat) : List Nat :=
  ((s.line line).owners.filter fun e => e.2 == core).map (·.1)

/-- 07 R126: the slice has performed an access: its acknowledgement leaves once every revocation is confirmed. -/
def State.reply (s : State) (id : Nat) (a : Access) (revs : List Revoke) (gwct : Nat) : State :=
  if revs.isEmpty then
    let (t, s) := s.transit a.src a.key
    let (n, s) := s.fresh
    { s with accs := tset s.accs id { a with stage := .back t, revs := [], gwct := gwct, perf := n } }
  else { s with accs := tset s.accs id { a with stage := .performed, revs := revs, gwct := gwct } }

/-- Messages of a slice to one core about one line arrive in the order in which they left: fills and acknowledgements before a
number. -/
def State.inOrder (s : State) (core line perf : Nat) : Bool :=
  s.accs.all fun (_, a) =>
    (match a.stage with | .back _ => !(a.src == core && a.key / 128 == line && a.space != .sh && a.perf < perf) | _ => true) &&
    a.revs.all fun r => r.applied || r.core != core || r.line != line || perf ≤ r.perf

/-- An engine write on its way to its home slice: a copy or collective engine's leaves after the quarantine (25 R385). -/
def State.engineWrite (s : State) (a : Access) : State :=
  let (t, s) := s.transit a.src a.key
  let (id, s) := s.fresh
  let (cid, s) := s.newCid a.src
  let t := if 512 ≤ a.src && a.src < 520 then t + Config.quarantine else t
  { s with accs := tset s.accs id { a with stage := .net t (portOf a.src a.key), entered := true, cid := cid, dt := s.dt } }
/-- The message of a pending bit: the write to IRQADDR, by the management core (log 93). -/
def State.irqMessage (s : State) (tenant b : Nat) : State :=
  let x := s.tenant tenant
  let v := x.data + wn b
  let (cid, _) := s.newCid 768
  let s := s.engineWrite { src := 768, kind := .engine, tenant := tenant, key := hostBase + x.addr.toNat % 2 ^ 48, width := 4,
                           data := leBytes 4 v.toNat }
  { s with outbox := s.outbox ++ [.irq cid x.addr.toNat v] }
/-- 29 R422: a pending bit of a tenant is set; an unmasked change sends its message. -/
def State.irq (s : State) (tenant b : Nat) : State :=
  let x := s.tenant tenant
  if x.pend.getLsbD b then s else
  let s := s.setTenant tenant { x with pend := x.pend ||| (1 <<< b) }
  if x.mask.getLsbD b || x.addr == 0 then s else s.irqMessage tenant b

/-- 07 R128: a GWCT or LE of another device as it is delivered. -/
def State.skewUp (s : State) (key t : Nat) : Nat := if isRemote key then t + s.dskew else t
def State.skewDown (s : State) (key t : Nat) : Nat := if isRemote key then t - s.dskew else t

/-! Accesses that are performed where they are made: those of the host, of other devices and of the trace store's fault queues. -/

/-- The runs of bytes of an access within single lines: key and length. -/
def lineRuns (key len : Nat) : List (Nat × Nat) :=
  (List.range ((key % 128 + len + 127) / 128)).map fun i =>
    let a := max key ((key / 128 + i) * 128)
    (a, min (key + len) ((key / 128 + i + 1) * 128) - a)
/-- 12 R217: has everything that reached a line before an access that comes now by a port been performed? -/
def State.taken (s : State) (line port : Nat) : Bool := (s.arrivals line).all fun x => !(x.1 < s.dt || x.2.1 ≤ port)
/-- May a run of bytes be read, or written, now by a source: what came before to its lines is performed, and a line that is written has
taken no write in this tick? -/
def State.clearRead (s : State) (src key len : Nat) : Bool := (lineRuns key len).all fun r => s.taken (r.1 / 128) (portOf src r.1)
def State.clearWrite (s : State) (src key len : Nat) : Bool :=
  s.clearRead src key len && (lineRuns key len).all fun r => s.lineFree (r.1 / 128)

/-- Does a run of bytes touch an open accumulator (07 R144)? -/
def State.anyOpen (s : State) (key len : Nat) : Bool := (lineRuns key len).any fun r => (s.line (r.1 / 128)).acc.isSome
/-- What a step from outside does now, or, where a line that it needs has to be waited for, its place among those that wait (log 74). -/
def State.orWait (s : State) (i : Instr) (t : Option State) : State := t.getD { s with deferred := s.deferred ++ [(i, s.input)] }

end Sys2Proof.Machine
end

