-- ==== Sys2Proof/Machine/Memory.lean ====
section
/-! DEFINITION. Class M: loads, stores and atomics (11 R183-R197), fences (R198-R200), team barriers (R202-R204),
transaction barriers (R205-R208), completion counters (R209, R210) and queue pushes (R211-R213). -/

namespace Sys2Proof.Machine

/-! Slot-assigning instructions (05 R95-R97). -/

/-- How a pending register of a thread is named: a v register by its logical number, an s register above 2^16. -/
def Thread.pendKey (th : Thread) (code : Nat) : Nat := if code < 64 then th.wb + code else 2 ^ 16 + (code - 64)
/-- Begin a slot-assigning instruction: its slot counts one more, and the registers named are pending for its threads. -/
def State.newOp (s : State) (i : Issue) (e : Option Ext) (ps codes : List Nat) (left : Nat) : Nat × State :=
  let (id, s) := s.fresh
  let slot := match e with | some x => x.ws.toNat | none => 0
  let pend := if codes.isEmpty then [] else
    ps.map fun t => (t, codes.map (((s.thread i.tk i.g t).getD {}).pendKey))
  let s := { s with ops := tset s.ops id { tk := i.tk, g := i.g, slot := slot, pend := pend, left := left } }
  (id, s.modGroup i.tk i.g fun m => { m with ws := tset m.ws slot (tget m.ws slot 0 + 1) })

/-! Watchpoints and samples (13 R242, R245; 27 R406, R409). -/

/-- The lowest watchpoint of a core that an access of a context hits. -/
def State.watchHit (s : State) (core ctx : Nat) (load : Bool) (spc : Space) (ea : Int) (n : Nat) : Option Nat :=
  if ea < 0 then none else
  let code := match spc with | .g => 0 | .sp => 1 | .sh => 2
  (((s.core core).wpts.filter fun e =>
    let w := e.2
    let c := w.ctl.toNat
    w.ctx == ctx && c % 4 == code && c.testBit (if load then 2 else 3) &&
      decide (w.addr < ea.toNat + n ∧ ea.toNat < w.addr + 4 * 2 ^ field c 4 4)).head?).map (·.1)

/-- Is the access of a thread sampled? The draw of the core's generator is free (log 3). -/
def State.drawSample (s : State) (tk g t : Nat) : Bool × State :=
  let th := (s.thread tk g t).getD {}
  let ctl := (s.core (coreOf tk)).smplctl.toNat
  let rate := min 20 (ctl % 32)
  if th.smplNext then (true, s)
  else if rate == 0 || (ctl.testBit 5 && th.smpltag == 0) then (false, s)
  else
    let (n, s) := s.draw
    (Config.sampleDraw n % 2 ^ rate == 0, s)

/-- Watchpoint traps are delivered after the clause; the first of a thread, or of its integer `mates`, stands (27 R409; 17 R287). -/
def Issue.watch (i : Issue) (mates : List Nat) (t : Nat) (ea : Int) (n : Nat) (suppressed : Bool) : Issue :=
  if (tget? i.after t).isSome || mates.any (fun u => (tget? i.after u).any (·.1 ≠ 48)) then i
  else { i with after := tset i.after t (48, BitVec.ofInt 64 ea, clean (wn (n + 4 * suppressed.toNat)), i.widx) }

/-! Accesses at issue (11 R184-R187, R195, R196). -/

/-- What an access needs of its page (23 R355). -/
def Access.perm (a : Access) : Perm :=
  match a.kind with
  | .load | .prefetch _ => .read
  | .atom _ => .atom
  | .writeback => .drop
  | .spill => .spill
  | .commit _ | .close _ _ => .tile
  | _ => .write

/-- 15 R277, 11 R195: the cause that a commit or close of a tile meets, the first in table order over its four pages. -/
def State.classifyTile (s : State) (a : Access) (va : Nat) : Nat × Nat × Access × State :=
  let (rs, s) := (List.range 4).foldl (fun (l, s) k =>
    let (x, s) := s.xlate (coreOf a.tk) (some (laneOf a.g (a.lanes.headD 0))) a.ctx (va + 4096 * k) .tile
    (l ++ [x], s)) (([] : List Xlate), s)
  let causes := rs.map fun (x : Xlate) => match x with
    | .ok _ _ => (0, 0)
    | x => (x.cause, x.detail)
  let bad := causes.filter fun c => c.1 ≠ 0
  let first := bad.foldl (fun (m : Option (Nat × Nat)) c => match m with
    | none => some c | some b => if c.1 < b.1 then some c else some b) none
  match first with
  | some (c, d) => (c, d, a, s)
  | none =>
    let keys := rs.map fun (x : Xlate) => match x with | .ok key _ => key | _ => 0
    if va % 16384 ≠ 0 then (15, 0, a, s) else (0, 0, { a with key := keys.headD 0, pages := keys }, s)

/-- The cause that an access meets at issue or replay, with its DETAIL, and the access with its key (11 R195: the first in
table order). -/
def State.classify (s : State) (a : Access) (ea : Int) : Nat × Nat × Access × State :=
  let misaligned := ea % (a.width : Int) ≠ 0
  match a.space with
  | .sh =>
    let size := match s.team a.tk with | some m => m.shSize | none => 0
    if ea < 0 || (size : Int) ≤ ea then (14, 0, a, s)
    else if misaligned then (15, 0, a, s) else (0, 0, { a with key := ea.toNat }, s)
  | .sp =>
    if ea < 0 || (s.spsize : Int) ≤ ea then (14, 0, a, s)
    else if misaligned then (15, 0, a, s)
    else (0, 0, { a with key := spBase (dieOf (coreOf a.tk)) + ea.toNat }, s)
  | .g =>
    if ea < 0 || (2 ^ 56 : Int) ≤ ea then (13, 0, a, s)
    else if a.isCommit then s.classifyTile a ea.toNat else
    match s.xlate (coreOf a.tk) (some (laneOf a.g (a.lanes.headD 0))) a.ctx ea.toNat a.perm with
    | (.ok key r, s) => if misaligned then (15, 0, a, s) else (0, 0, { a with key := key, recoverable := r }, s)
    | (x, s) => (x.cause, x.detail, a, s)

/-- Issue accesses of a group in lane order: poison causes end theirs, park causes park theirs, the rest are under way. -/
def State.issueAccs (s : State) (tk g : Nat) (l : List (Access × Int)) : State :=
  let (s, parks) := l.foldl (fun (s, parks) (a, ea) =>
    let a : Access := { a with va := (ea % 2 ^ 64).toNat }
    let (id, s) := s.fresh
    let (cause, detail, a, s) := s.classify a ea
    let s := { s with accs := tset s.accs id a }
    if cause == 0 then (s, parks)
    else if isParkCause cause then (s, parks ++ [(id, cause)])
    else (s.poisonAcc id a cause detail, parks)) (s, [])
  (s.parkAccs tk g parks).settle (coreOf tk)

/-- Registers of a data group as bytes, with the poison of each register. -/
def dataBytes (l : List PWord) (width : Nat) : List Byte := (l.flatMap fun x => leBytes 4 x.val.toNat).take width

/-- The operand of an atomic as (new value, compare value, poison). -/
def State.atomData (s : State) (i : Issue) (mk : MKind) (f : FM) (t : Nat) : List Byte × List Byte × Bool :=
  let c := atomOperand f
  let n := 2 ^ f.width.toNat
  let konst := if mk == .fatom then kFloat .f32 else kInt
  let regs := if mk == .cas then n / 2 else n / 4
  let xs := (List.range regs).map fun k => if c < 128 then s.src i konst t (c + k) else if k == 0 then s.src i konst t c else clean 0
  let b := xs.flatMap fun x => leBytes 4 x.val.toNat
  (if mk == .cas then b.drop n else b, if mk == .cas then b.take n else [], xs.any (·.poison))

/-- A load, store or atomic (11 R183-R197). -/
def State.access (s : State) (f : FM) (spc : Space) (mk : MKind) (k : AKind) : State :=
  let (s, ps) := s.parts f.ext
  match s.cur, s.cur.bind fun i => s.team i.tk with
  | some i, some m =>
    if ps.isEmpty then s.shiftEmpty else
    let width := 2 ^ f.width.toNat
    let off := match f.ext with | some x => sext x.imm.toNat 17 | none => 0
    let base (t : Nat) : PDword := if spc == .g then s.pair i t f.a.toNat else
      let x := s.src i kInt t f.a.toNat
      { val := x.val.setWidth 64, poison := x.poison }
    let ea (t : Nat) : Int := (base t).val.toNat + off
    let regs (t : Nat) : List PWord := (List.range (groupRegs f.width.toNat)).map fun n => s.src i kInt t (f.d.toNat + n)
    let atom (t : Nat) := s.atomData i mk f t
    let badData (t : Nat) : Bool :=
      match mk with | .load => false | .store => (regs t).any (·.poison) | _ => (atom t).2.2
    let addr (t : Nat) : Nat := (ea t % 2 ^ 64).toNat
    -- consuming uses (23 R369)
    let s := s.killAll i.tk i.g (ps.filter fun t => (base t).poison) 25 i.pc
    let s := if spc == .sh then s else s.killAll i.tk i.g (ps.filter badData) 27 i.pc addr
    match s.cur with
    | none => s
    | some j =>
      let ps := ps.filter (· ∈ j.live)
      if ps.isEmpty then s.shiftEmpty else
      let once := oncePer mk f
      let units : List (List Nat) := if once then [ps] else ps.map ([·])
      let hit (t : Nat) : Option Nat :=
        if ((s.thread i.tk i.g t).getD {}).h then none
        else s.watchHit (coreOf i.tk) m.ctx (mk == .load) spc (ea t) width
      let stopped (u : List Nat) : Bool := mk != .load && u.any fun t => (hit t).isSome
      let s := s.modCur fun i => units.foldl (fun i u => u.foldl (fun i t => match hit t with
        | some n => i.watch ((m.group i.g).integer t) t (ea t) n (stopped u)
        | none => i) i) i
      let go := units.filter fun u => !stopped u
      let codes := if mk == .store || f.w then [] else (List.range (groupRegs f.width.toNat)).map (f.d.toNat + ·)
      let (op, s) := s.newOp i f.ext ps codes go.length
      let low := ps.headD 0
      let (sampled, s) := if go.any (low ∈ ·) then s.drawSample i.tk i.g low else (false, s)
      let s := overAll ps (fun s t => s.modThread i.tk i.g t fun th => { th with smplNext := false }) s
      let accs := go.map fun u =>
        let t := u.headD 0
        let th := (s.thread i.tk i.g t).getD {}
        let (d, c, p) : List Byte × List Byte × List Bool := match mk with
          | .load => ([], [], [])
          | .store => (dataBytes (regs t) width, [], (regs t).map (·.poison))
          | _ => ((atom t).1, (atom t).2.1, [(atom t).2.2])
        let a : Access := { src := coreOf i.tk, kind := k, space := spc, tk := i.tk, g := i.g, lanes := u, clause := i.id,
                            ctx := m.ctx, tenant := m.tenant, width := width, data := d, pois := p, cmp := c,
                            order := f.order.toNat, scope := f.scope.toNat,
                            dst := if mk == .store || f.w then none else some f.d.toNat, wb := th.wb, op := some op,
                            pc := i.pc, dt := s.dt, born := s.dt, sampled := sampled && t == low, tag := th.smpltag }
        (a, ea t)
      (s.issueAccs i.tk i.g accs).shiftEmpty
  | _, _ => s

def execLdG (f : FM) (s : State) : Host.Outcome State Fault Refusal := .next (s.access f .g .load .load)
def execLdSh (f : FM) (s : State) : Host.Outcome State Fault Refusal := .next (s.access f .sh .load .load)
def execLdSp (f : FM) (s : State) : Host.Outcome State Fault Refusal := .next (s.access f .sp .load .load)
def execStG (f : FM) (s : State) : Host.Outcome State Fault Refusal := .next (s.access f .g .store .store)
def execStSh (f : FM) (s : State) : Host.Outcome State Fault Refusal := .next (s.access f .sh .store .store)
def execStSp (f : FM) (s : State) : Host.Outcome State Fault Refusal := .next (s.access f .sp .store .store)
def execAtomGAdd (f : FM) (s : State) : Host.Outcome State Fault Refusal :=
  .next (s.access f .g .atom (.atom .add))
def execAtomGMin (f : FM) (s : State) : Host.Outcome State Fault Refusal :=
  .next (s.access f .g .atom (.atom .min))
def execAtomGMax (f : FM) (s : State) : Host.Outcome State Fault Refusal :=
  .next (s.access f .g .atom (.atom .max))
def execAtomGAnd (f : FM) (s : State) : Host.Outcome State Fault Refusal :=
  .next (s.access f .g .atom (.atom .and))
def execAtomGOr (f : FM) (s : State) : Host.Outcome State Fault Refusal :=
  .next (s.access f .g .atom (.atom .or))
def execAtomGXor (f : FM) (s : State) : Host.Outcome State Fault Refusal :=
  .next (s.access f .g .atom (.atom .xor))
def execAtomGXchg (f : FM) (s : State) : Host.Outcome State Fault Refusal :=
  .next (s.access f .g .atom (.atom .xchg))
def execAtomGCas (f : FM) (s : State) : Host.Outcome State Fault Refusal :=
  .next (s.access f .g .cas (.atom .cas))
def execAtomGFadd (f : FM) (s : State) : Host.Outcome State Fault Refusal :=
  .next (s.access f .g .fatom (.atom .fadd))
def execAtomGFmin (f : FM) (s : State) : Host.Outcome State Fault Refusal :=
  .next (s.access f .g .fatom (.atom .fmin))
def execAtomGFmax (f : FM) (s : State) : Host.Outcome State Fault Refusal :=
  .next (s.access f .g .fatom (.atom .fmax))
def execAtomShAdd (f : FM) (s : State) : Host.Outcome State Fault Refusal :=
  .next (s.access f .sh .atom (.atom .add))
def execAtomShMin (f : FM) (s : State) : Host.Outcome State Fault Refusal :=
  .next (s.access f .sh .atom (.atom .min))
def execAtomShMax (f : FM) (s : State) : Host.Outcome State Fault Refusal :=
  .next (s.access f .sh .atom (.atom .max))
def execAtomShAnd (f : FM) (s : State) : Host.Outcome State Fault Refusal :=
  .next (s.access f .sh .atom (.atom .and))
def execAtomShOr (f : FM) (s : State) : Host.Outcome State Fault Refusal :=
  .next (s.access f .sh .atom (.atom .or))
def execAtomShXor (f : FM) (s : State) : Host.Outcome State Fault Refusal :=
  .next (s.access f .sh .atom (.atom .xor))
def execAtomShXchg (f : FM) (s : State) : Host.Outcome State Fault Refusal :=
  .next (s.access f .sh .atom (.atom .xchg))
def execAtomShCas (f : FM) (s : State) : Host.Outcome State Fault Refusal :=
  .next (s.access f .sh .cas (.atom .cas))
def execAtomShFadd (f : FM) (s : State) : Host.Outcome State Fault Refusal :=
  .next (s.access f .sh .fatom (.atom .fadd))
def execAtomShFmin (f : FM) (s : State) : Host.Outcome State Fault Refusal :=
  .next (s.access f .sh .fatom (.atom .fmin))
def execAtomShFmax (f : FM) (s : State) : Host.Outcome State Fault Refusal :=
  .next (s.access f .sh .fatom (.atom .fmax))
def execAtomSpAdd (f : FM) (s : State) : Host.Outcome State Fault Refusal :=
  .next (s.access f .sp .atom (.atom .add))
def execAtomSpMin (f : FM) (s : State) : Host.Outcome State Fault Refusal :=
  .next (s.access f .sp .atom (.atom .min))
def execAtomSpMax (f : FM) (s : State) : Host.Outcome State Fault Refusal :=
  .next (s.access f .sp .atom (.atom .max))
def execAtomSpAnd (f : FM) (s : State) : Host.Outcome State Fault Refusal :=
  .next (s.access f .sp .atom (.atom .and))
def execAtomSpOr (f : FM) (s : State) : Host.Outcome State Fault Refusal :=
  .next (s.access f .sp .atom (.atom .or))
def execAtomSpXor (f : FM) (s : State) : Host.Outcome State Fault Refusal :=
  .next (s.access f .sp .atom (.atom .xor))
def execAtomSpXchg (f : FM) (s : State) : Host.Outcome State Fault Refusal :=
  .next (s.access f .sp .atom (.atom .xchg))
def execAtomSpCas (f : FM) (s : State) : Host.Outcome State Fault Refusal :=
  .next (s.access f .sp .cas (.atom .cas))
def execAtomSpFadd (f : FM) (s : State) : Host.Outcome State Fault Refusal :=
  .next (s.access f .sp .fatom (.atom .fadd))
def execAtomSpFmin (f : FM) (s : State) : Host.Outcome State Fault Refusal :=
  .next (s.access f .sp .fatom (.atom .fmin))
def execAtomSpFmax (f : FM) (s : State) : Host.Outcome State Fault Refusal :=
  .next (s.access f .sp .fatom (.atom .fmax))

/-! Fences (11 R198-R200; 07 R135, R136). -/

def execFence (f : FR) (s : State) : Host.Outcome State Fault Refusal :=
  let (s, ps) := s.parts f.ext
  .next (match s.cur with
  | none => s
  | some i =>
    let s := overAll ps (fun s t =>
      let (id, s) := s.fresh
      { s with accs := tset s.accs id { src := coreOf i.tk, kind := .fence, tk := i.tk, g := i.g, lanes := [t], clause := i.id,
                                        order := f.b.toNat / 8, scope := f.b.toNat % 8, pc := i.pc, dt := s.dt } }) s
    (s.settle (coreOf i.tk)).shiftEmpty)

def execVfence (f : FR) (s : State) : Host.Outcome State Fault Refusal :=
  let (s, ps) := s.parts f.ext
  .next (match s.cur with
  | none => s
  | some i =>
    (if ps.isEmpty then s else s.modGroup i.tk i.g fun m => { m with vfence := true }).shiftEmpty)

/-! Team barriers (11 R202-R204; 01 R39, R40). -/

/-- Threads of the groups of some roles that are not Exited (01 R39). -/
def Team.countRoles (m : Team) (roles : Nat) : Nat :=
  (m.groups.map fun x => if roles.testBit x.2.role then x.2.notExited.length else 0).foldl (· + ·) 0

def execBarSet (f : FR) (s : State) : Host.Outcome State Fault Refusal :=
  let (s, ps) := s.parts f.ext
  .next (match s.cur, s.cur.bind fun i => s.team i.tk with
  | some i, some m =>
    if ps.isEmpty then s.shiftEmpty else
    let n := f.d.toNat
    let x := s.src i kInt (ps.headD 0) f.a.toNat
    let roles := x.val.toNat % 16
    (if x.poison then s.killAll i.tk i.g ps 26 i.pc
     else if (m.bar n).a ≠ 0 || 2 ^ m.card.roles.length ≤ roles then s.trapAll i.tk i.g ps fun _ => i.trap 36
     else s.modTeam i.tk fun m => { m with bars := tset m.bars n { m.bar n with roles := roles, e := m.countRoles roles } }).shiftEmpty
  | _, _ => s)

/-- Threads of the clause being issued wait at its end. -/
def State.willWait (s : State) (l : List (Nat × WaitOn)) : State :=
  s.modCur fun i => { i with waits := l.foldl (fun w x => tset w x.1 (tget w x.1 [] ++ [x.2])) i.waits, met := i.met.filter (!l.contains ·) }

/-- 11 R203, R204: arrivals of the participating threads, which wait where `wait`. An arrival is counted when the thread's
earlier accesses are performed in the core. -/
def State.barArrive (s : State) (f : FR) (wait : Bool) : State :=
  let (s, ps) := s.parts f.ext
  match s.cur, s.cur.bind fun i => s.team i.tk with
  | some i, some m =>
    let n := f.d.toNat
    let b := m.bar n
    let bad (t : Nat) : Bool := !b.counts (m.group i.g).role || (32 * i.g + t) ∈ b.arrived || s.arriving i.tk i.g t n
    let s := s.trapAll i.tk i.g (ps.filter bad) fun _ => i.trap 36
    let live := (s.cur.map (·.live)).getD []
    let ps := (ps.filter fun t => !bad t).filter (· ∈ live)
    let s := if wait then s.willWait (ps.map fun t => (t, .bar n b.phase)) else s
    let s := overAll ps (fun s t =>
      let (id, s) := s.fresh
      { s with accs := tset s.accs id { src := coreOf i.tk, kind := .arrive n, tk := i.tk, g := i.g, lanes := [t], clause := i.id,
                                        pc := i.pc, dt := s.dt } }) s
    (s.settle (coreOf i.tk)).shiftEmpty
  | _, _ => s
def execBarArr (f : FR) (s : State) : Host.Outcome State Fault Refusal := .next (s.barArrive f false)
def execBarSync (f : FR) (s : State) : Host.Outcome State Fault Refusal := .next (s.barArrive f true)

/-! Transaction barriers (11 R205-R208, R218; 07 R142). -/

/-- 11 R207: complete a phase. -/
def State.tbComplete (s : State) (tk k : Nat) : State :=
  match s.team tk with
  | none => s
  | some m =>
    let b := tget m.tbs k {}
    let lines := b.regions.flatMap fun r => r.lines ++ s.spanLines (coreOf tk) m.ctx r
    let s := if b.overfull then s.selfInvalidate (coreOf tk) else s.selfInvalidateIn (coreOf tk) (lines.contains ·)
    (s.modTeam tk fun m => { m with
      tbs := tset m.tbs k { b with phase := !b.phase, regions := [], overfull := false }
      groups := m.groups.map fun (g, x) => (g, x.meet fun c => match c with | .tb j par => j == k && par == b.phase | _ => false) }).noteMet tk (.tb k b.phase)

/-- 11 R207, R218: the count trap, with its four items. -/
def Issue.countTrap (i : Issue) (k mn a pend : Nat) : Trap :=
  { i.trap 38 with xdet := clean (wn (k + 256 * mn)), addr := a, detail := pend + 2 ^ 24 * k + 2 ^ 30 * mn }

/-- 11 R207: `tb.expect` (mnemonic 0) and `tb.arrive` (1), once per candidate. -/
def State.tbCount (s : State) (f : FR) (mn : Nat) : State :=
  let (s, ps) := s.parts f.ext
  match s.cur, s.cur.bind fun i => s.team i.tk with
  | some i, some m =>
    if ps.isEmpty then s.shiftEmpty else
    let k := f.d.toNat
    let x := s.src i kInt (ps.headD 0) f.a.toNat
    let a := x.val.toNat
    let b := tget m.tbs k {}
    (if m.tbn ≤ k then s.trapAll i.tk i.g ps fun _ => i.trap 37
     else if x.poison then s.killAll i.tk i.g ps 27 i.pc
     else if mn == 0 then
       if 2 ^ 24 ≤ a || 2 ^ 24 - 1 < b.pend + a then s.trapAll i.tk i.g ps fun _ => i.countTrap k mn a b.pend
       else s.modTeam i.tk fun m => { m with tbs := tset m.tbs k { b with pend := b.pend + a } }
     else if b.pend < a then s.trapAll i.tk i.g ps fun _ => i.countTrap k mn a b.pend
     else
       let s := s.modTeam i.tk fun m => { m with tbs := tset m.tbs k { b with pend := b.pend - a } }
       if b.pend == a then s.tbComplete i.tk k else s).shiftEmpty
  | _, _ => s
def execTbExpect (f : FR) (s : State) : Host.Outcome State Fault Refusal := .next (s.tbCount f 0)
def execTbArrive (f : FR) (s : State) : Host.Outcome State Fault Refusal := .next (s.tbCount f 1)

def execTbWait (f : FR) (s : State) : Host.Outcome State Fault Refusal :=
  let (s, ps) := s.parts f.ext
  .next (match s.cur, s.cur.bind fun i => s.team i.tk with
  | some i, some m =>
    let k := f.d.toNat
    if m.tbn ≤ k then (s.trapAll i.tk i.g ps fun _ => i.trap 37).shiftEmpty else
    let x (t : Nat) : PWord := s.src i kInt t f.a.toNat
    let par (t : Nat) : Bool := (x t).val.getLsbD 0
    let s := s.killAll i.tk i.g (ps.filter fun t => (x t).poison) 26 i.pc
    let live := (s.cur.map (·.live)).getD []
    let ws := ps.filter fun t => t ∈ live && (tget m.tbs k {}).phase == par t
    (s.willWait (ws.map fun t => (t, .tb k (par t)))).shiftEmpty
  | _, _ => s)

/-! Completion counters (11 R209, R210). -/

def execCcWait (f : FR) (s : State) : Host.Outcome State Fault Refusal :=
  let (s, ps) := s.parts f.ext
  .next (match s.cur with
  | none => s
  | some i =>
    let scope := immOf f.ext % 8
    let a (t : Nat) : PDword := s.pair i t f.a.toNat
    let b (t : Nat) : PDword := s.pair i t f.b.toNat
    let s := s.killAll i.tk i.g (ps.filter fun t => (a t).poison) 25 i.pc
    let s := s.killAll i.tk i.g (ps.filter fun t => (b t).poison) 26 i.pc
    let s := overAll ps (fun s t =>
      if !(t ∈ (s.cur.map (·.live)).getD []) then s else
      let (met, s) := s.ccCheck i.tk i.g t (a t).val.toNat (b t).val scope i.pc
      if met || !(t ∈ (s.cur.map (·.live)).getD []) then s
      else s.willWait [(t, .cc (a t).val.toNat (b t).val scope)]) s
    s.shiftEmpty)

/-! Queue registers (11 R211-R213). -/

def execQpush (f : FR) (s : State) : Host.Outcome State Fault Refusal :=
  let (s, ps) := s.parts f.ext
  .next (match s.cur with
  | none => s
  | some i =>
    if ps.isEmpty then s.shiftEmpty else
    let q := f.d.toNat
    let x := s.src i kInt (ps.headD 0) f.a.toNat
    if x.poison && q < 6 then (s.killAll i.tk i.g ps 27 i.pc).shiftEmpty else
    let (id, s) := s.fresh
    let s := { s with accs := tset s.accs id { src := coreOf i.tk, kind := .push q x, tk := i.tk, g := i.g, lanes := ps,
                                               clause := i.id, pc := i.pc, dt := s.dt } }
    (s.settle (coreOf i.tk)).shiftEmpty)

end Sys2Proof.Machine
end

