-- ==== Sys2Proof/Machine/Tile.lean ====
section
/-! DEFINITION. Checksums of tiles (03 R73-R75; 15 R255-R260) and the tile store: ranges, records, reservations and the
instructions `ts.*` (15 R249-R262). -/

namespace Sys2Proof.Machine

/-! Tiles as their checks see them: elements by linear index, scales by row and block (15 R253; 03 R57, R73). -/

/-- A tile: its format, and how its codes and poison marks are found. -/
structure View where
  fmt : Fmt
  sc : Bool := false
  len : Nat := 16
  rows : Nat
  cols : Nat
  code : Nat → Nat
  bad : Nat → Bool
  scale : Nat → Nat → Nat := fun _ _ => 127
  badScale : Nat → Nat → Bool := fun _ _ => false

/-- 15 R253: blocks in a row. -/
def View.blocks (v : View) : Nat := max 1 (v.cols / v.len)
/-- The block of a column. -/
def View.block (v : View) (j : Nat) : Nat := min (j / v.len) (v.blocks - 1)
/-- 15 R253: the columns of a block. -/
def View.blockCols (v : View) (b : Nat) : List Nat := (List.range v.cols).filter fun j => v.block j == b

/-- 03 R56, R57: the quad that holds an element, none where it is poisoned or ill-formed. -/
def View.quad (v : View) (n : Nat) : Option (List Num) :=
  let b := n / 4 * 4
  if (List.range 4).any fun k => v.bad (b + k) then none
  else k4xQuad ((List.range 4).foldl (fun h k => h + v.code (b + k) * 16 ^ k) 0)
/-- Is an element the outlier of its quad? -/
def View.isOutlier (v : View) (n : Nat) : Bool :=
  let b := n / 4 * 4
  (v.code b == 8 && n % 4 == 0) || (v.code b ≠ 8 && v.code (b + 3) == 8 && n % 4 == 3)
/-- Is an element an ordinary slot of its quad? -/
def View.isOrdinary (v : View) (n : Nat) : Bool :=
  let b := n / 4 * 4
  let e0 := v.code b == 8
  let e3 := v.code (b + 3) == 8
  !(v.isOutlier n) && (if e0 || e3 then n % 4 == (if e0 then 3 else 0) else true)

/-- An element's value without its scale, none where it is poisoned. -/
def View.raw (v : View) (i j : Nat) : Option Num :=
  let n := i * v.cols + j
  if v.fmt == .k4x then (v.quad n).map fun q => q.getD (n % 4) .zero
  else if v.bad n then none else some (val v.fmt (v.code n))
/-- The value of a block's scale, none where it is poisoned. -/
def View.scaleOf (v : View) (i b : Nat) : Option Num :=
  if !v.sc then some (.fin false 1 0 false) else if v.badScale i b then none else some (val .e8m0 (v.scale i b))
/-- An element's value times its scale, none where either is poisoned. -/
def View.elem (v : View) (i j : Nat) : Option Num :=
  match v.raw i j, v.scaleOf i (v.block j) with
  | some x, some s => some (x.mul s)
  | _, _ => none

/-- Integer formats, whose exact component sums their elements. -/
def Fmt.isInt (g : Fmt) : Bool := match g with | .int8 | .int32 | .uint32 => true | _ => false
/-- The integer of an element as the exact component takes it (03 R73). -/
def View.int (v : View) (i j : Nat) : Int :=
  let n := i * v.cols + j
  match v.fmt with
  | .int8 => sext (v.code n) 8
  | .int32 | .uint32 => sext (v.code n) 32
  | .k4x => if v.isOrdinary n then sext (v.code n) 4 else 0
  | _ => 0
/-- 03 R74: a sum from +0 in increasing index, rounded at each step. -/
def sum32 (l : List Num) : Word := l.foldl (fun a x => rndF32 (Num.add false (val .f32 a.toNat) x)) 0

/-- 03 R73, R74: the components of a row or column: its cells and the blocks that meet it, in increasing index. -/
def View.comp (v : View) (cells blocks : List (Nat × Nat)) : Comp :=
  if (cells.any fun c => (v.elem c.1 c.2).isNone) then { poison := true } else
  let ints := w32 ((cells.map fun c => v.int c.1 c.2).foldl (· + ·) 0)
  let codes := if v.sc then wn ((blocks.map fun b => v.scale b.1 b.2).foldl (· + ·) 0) else 0
  let terms := if v.fmt.isInt then [] else
    (cells.filter fun c => v.fmt != .k4x || v.isOutlier (c.1 * v.cols + c.2)).filterMap fun c => v.elem c.1 c.2
  { exact := if v.fmt.isInt || v.fmt == .k4x then ints else codes, fp := sum32 terms, mag := sum32 (terms.map Num.abs),
    scale := if v.fmt == .k4x then codes else 0 }
def View.rowComp (v : View) (i : Nat) : Comp :=
  v.comp ((List.range v.cols).map fun j => (i, j)) ((List.range v.blocks).map fun b => (i, b))
def View.colComp (v : View) (j : Nat) : Comp :=
  v.comp ((List.range v.rows).map fun i => (i, j)) ((List.range v.rows).map fun i => (i, v.block j))

/-- Every row and column stale. -/
def View.allStale (v : View) : Sidecar :=
  { rows := (List.range v.rows).map fun i => (i, { stale := true }), cols := (List.range v.cols).map fun j => (j, { stale := true }) }
/-- Fresh components of every row and column. -/
def View.fresh (v : View) : Sidecar :=
  { rows := (List.range v.rows).map fun i => (i, v.rowComp i), cols := (List.range v.cols).map fun j => (j, v.colComp j) }
/-- 15 R255: the rows and columns of cells are marked poisoned. -/
def Sidecar.mark (c : Sidecar) (cells : List (Nat × Nat)) : Sidecar :=
  let mark (l : List Nat) (t : Tbl Comp) : Tbl Comp := t.map fun (i, x) => (i, if i ∈ l then { x with poison := true } else x)
  { rows := mark (cells.map (·.1)) c.rows, cols := mark (cells.map (·.2)) c.cols }
/-- 03 R57: of the quads that rows and columns hold elements of, the elements of those that decode to poison: all four of each. -/
def View.ill (v : View) (rows cols : List Nat) : List (Nat × Nat) :=
  if v.fmt != .k4x then [] else
  (((rows.flatMap fun i => (List.range v.cols).map fun j => (i, j)) ++
    (cols.flatMap fun j => (List.range v.rows).map fun i => (i, j))).filter fun x => (v.raw x.1 x.2).isNone).flatMap fun x =>
      (List.range 4).map fun k => let n := (x.1 * v.cols + x.2) / 4 * 4 + k; (n / v.cols, n % v.cols)
/-- 15 R257: a re-sum of what is stale; an ill-formed quad that it decodes poisons the rows and columns of its elements. -/
def View.resum (v : View) (c : Sidecar) : Sidecar :=
  let stale (t : Tbl Comp) : List Nat := (t.filter (·.2.stale)).map (·.1)
  let new : Sidecar := { rows := c.rows.map fun (i, x) => (i, if x.stale then v.rowComp i else x)
                         cols := c.cols.map fun (j, x) => (j, if x.stale then v.colComp j else x) }
  new.mark (v.ill (stale c.rows) (stale c.cols))
def Sidecar.anyStale (c : Sidecar) : Bool := c.rows.any (·.2.stale) || c.cols.any (·.2.stale)

/-! Comparison, correction, mismatch (15 R258-R260). -/

/-- Which components of a row or column disagree, and by how much the exact ones do (stored − recomputed). -/
structure Diff where
  exact : Bool
  fp : Bool
  scale : Bool
  dExact : Word
  dScale : Word
deriving DecidableEq, Repr

def Diff.any (d : Diff) : Bool := d.exact || d.fp || d.scale
/-- 15 R258: compare stored components with recomputed ones. -/
def View.diff (v : View) (t : Nat) (st re : Comp) : Diff :=
  if st.stale || st.poison || re.poison then { exact := false, fp := false, scale := false, dExact := 0, dScale := 0 } else
  let elems := v.fmt.isInt || v.fmt == .k4x
  let dS := if v.fmt == .k4x then st.scale - re.scale else if v.sc then st.exact - re.exact else 0
  let dE := if elems then st.exact - re.exact else 0
  { exact := dE ≠ 0, fp := !v.fmt.isInt && !agree st.fp re.fp st.mag t, scale := dS ≠ 0, dExact := dE, dScale := dS }
/-- The rows and columns, among those given, that disagree. -/
def View.disagree (v : View) (c : Sidecar) (t : Nat) (rows cols : List Nat) : List (Nat × Diff) × List (Nat × Diff) :=
  ((rows.map fun i => (i, v.diff t (tget c.rows i {}) (v.rowComp i))).filter (·.2.any),
   (cols.map fun j => (j, v.diff t (tget c.cols j {}) (v.colComp j))).filter (·.2.any))

/-- A correction: the cell, or the scale of a block, and old and new codes. -/
inductive Fix where
  | elem (i j old new : Nat)
  | outlier (i j old new : Nat)
  | scale (i b old new : Nat)
deriving DecidableEq, Repr

/-- 15 R259: the single correction that the disagreements admit, if any. -/
def View.fix (v : View) (c : Sidecar) (rm cm : List (Nat × Diff)) : Option Fix :=
  if (rm ++ cm).any (·.2.scale) then
    match rm.filter (·.2.scale) with
    | [(i, d)] =>
      let cols := (cm.filter (·.2.scale)).map (·.1)
      match (List.range v.blocks).find? fun b => v.blockCols b == cols with
      | some b =>
        let new : Int := (v.scale i b : Int) + d.dScale.toInt
        if 0 ≤ new && new ≤ 0xFE then some (.scale i b (v.scale i b) new.toNat) else none
      | none => none
    | _ => none
  else
    match rm, cm with
    | [(i, dr)], [(j, dc)] =>
      let n := i * v.cols + j
      let old := v.code n
      if dr.exact && dc.exact then
        if dr.dExact ≠ dc.dExact then none else
        let d := dr.dExact.toInt
        match v.fmt with
        | .int8 => let x := sext old 8 + d
                   if -128 ≤ x && x ≤ 127 then some (.elem i j old ((w32 x).toNat % 256)) else none
        | .k4x => let x := sext old 4 + d
                  if v.isOrdinary n && -7 ≤ x && x ≤ 7 then some (.elem i j old ((w32 x).toNat % 16)) else none
        | _ => some (.elem i j old (wn (old + dr.dExact.toNat)).toNat)
      else if dr.fp && dc.fp then
        match v.elem i j with
        | none => none
        | some x =>
          let st := (tget c.cols j {}).fp
          let x := Num.add false x (Num.add false (val .f32 st.toNat) (val .f32 (v.colComp j).fp.toNat).neg)
          let inv : Num := if v.sc then .fin false 1 (127 - (v.scale i (v.block j) : Int)) false else .fin false 1 0 false
          if v.sc && v.scale i (v.block j) == 255 then none
          else if v.fmt == .k4x then
            if !v.isOutlier n || x.isNan then none else
            let q := n / 4 * 4
            some (.outlier i j (v.code (q + 1) + 16 * v.code (q + 2)) (rnd (x.mul inv) .e4m3 0 true 0).code)
          else some (.elem i j old (rnd (x.mul inv) v.fmt 0 true 0).code)
      else none
    | _, _ => none

/-- What a check found: a correction (row, column, component 0 exact 1 FP32 2 scale code, old and new codes), or a mismatch
with its rows and columns. -/
inductive TileEvent where
  | corrected (row col comp old new : Nat)
  | mismatch (rm cm : List Nat)
deriving DecidableEq, Repr

/-- A correction's event. -/
def Fix.event (f : Fix) (v : View) : TileEvent :=
  match f with
  | .elem i j o n => .corrected i j (if v.fmt.isInt || v.fmt == .k4x then 0 else 1) o n
  | .outlier i j o n => .corrected i j 1 o n
  | .scale i b o n => .corrected i (b * v.len) 2 o n

/-- 15 R258-R260 over any store `α` of a tile: compare the rows and columns read in full; if some disagree, locate over all
of them, correct and compare again, or poison. -/
def checkTile {α : Type} (x : α) (view : α → View) (c : Sidecar) (t : Nat) (apply : α → Fix → α)
    (poison : α → List Nat → List Nat → α) (rows cols : List Nat) : α × List TileEvent :=
  let v := view x
  let (r0, c0) := v.disagree c t rows cols
  if r0.isEmpty && c0.isEmpty then (x, []) else
  let allR := List.range v.rows
  let allC := List.range v.cols
  let (rm, cm) := v.disagree c t allR allC
  let lost := (poison x (rm.map (·.1)) (cm.map (·.1)), [TileEvent.mismatch (rm.map (·.1)) (cm.map (·.1))])
  match v.fix c rm cm with
  | none => lost
  | some f =>
    let y := apply x f
    let (r1, c1) := (view y).disagree c t allR allC
    if r1.isEmpty && c1.isEmpty then (y, [f.event v]) else lost

/-! Ranges and records (15 R249-R254). -/

/-- A record's fields (15 R252). -/
structure TileRec where
  fmt : Nat
  sc : Bool
  blk : Nat
  rows : Nat
  cols : Nat
  tol : Nat
  soff : Nat
deriving DecidableEq, Repr

def tileRec (d : Dword) : TileRec :=
  let x := d.toNat
  { fmt := field x 0 4, sc := x.testBit 4, blk := field x 5 2, rows := field x 8 7 + 1, cols := field x 16 7 + 1,
    tol := field x 24 5, soff := field x 32 21 }
def TileRec.g (r : TileRec) : Fmt := Fmt.ofCode r.fmt
def TileRec.len (r : TileRec) : Nat := 16 * 2 ^ r.blk
def TileRec.blocks (r : TileRec) : Nat := max 1 (r.cols / r.len)
/-- Bytes of the data. -/
def TileRec.size (r : TileRec) : Nat := r.rows * r.cols * r.g.width / 8
/-- 03 R75: the tolerance exponent. -/
def TileRec.tolOf (r : TileRec) : Nat := max (tolDefault r.g) r.tol
/-- 15 R254: is a record refused for a range of `gran` granules? -/
def recordRefused (d : Dword) (gran : Nat) : Bool :=
  let r := tileRec d
  let x := d.toNat
  x.testBit 7 || x.testBit 15 || x.testBit 23 || field x 29 3 ≠ 0 || field x 53 11 ≠ 0 ||
  !scaleOk r.fmt r.sc r.blk || 24 < r.tol || (r.g.width == 4 && r.cols % 2 == 1) ||
  (r.sc && r.cols % r.len ≠ 0 && r.len % r.cols ≠ 0) ||
  (if r.sc then r.soff % 4 ≠ 0 || r.soff < r.size else r.soff ≠ 0) ||
  512 * gran < r.size || (r.sc && 512 * gran < r.soff + r.rows * r.blocks)

/-- The bytes below `n` of a byte memory as an array. -/
def flat (m : Mem) (n : Nat) : Array Byte := m.foldl (fun a e => if e.1 < n then a.set! e.1 e.2 else a) (Array.replicate n 0)
/-- A code of width `w` at linear index `n` of bytes. -/
def codeAt (a : Array Byte) (w n : Nat) : Nat :=
  if w == 4 then (a.getD (n / 2) 0).toNat / 16 ^ (n % 2) % 16
  else (List.range (w / 8)).foldl (fun x k => x + (a.getD (n * w / 8 + k) 0).toNat * 256 ^ k) 0
/-- The half-bytes of an element. -/
def halves (w n : Nat) : List Nat := (List.range (max 1 (w / 4))).map (n * (w / 4) + ·)

/-- A range as a tile. -/
def Range.view (r : Range) (c : TileRec) : View :=
  let a := flat r.bytes (512 * r.gran)
  let w := c.g.width
  { fmt := c.g, sc := c.sc, len := if c.sc then c.len else c.cols, rows := c.rows, cols := c.cols
    code := codeAt a w
    bad := fun n => !r.poison.isEmpty && (halves w n).any (· ∈ r.poison)
    scale := fun i b => (a.getD (c.soff + i * c.blocks + b) 0).toNat
    badScale := fun i b => (halves 8 (c.soff + i * c.blocks + b)).any (· ∈ r.poison) }
/-- Write a code of width `w` at a linear index. -/
def putCode (m : Mem) (w n code : Nat) : Mem :=
  if w == 4 then
    let old := (mget m (n / 2)).toNat
    mset m (n / 2) (BitVec.ofNat 8 (if n % 2 == 0 then old / 16 * 16 + code % 16 else old % 16 + 16 * (code % 16)))
  else msets m (n * w / 8) (leBytes (w / 8) code)
/-- Apply a correction to a range. -/
def Range.fix (c : TileRec) (r : Range) (f : Fix) : Range :=
  match f with
  | .elem i j _ new => { r with bytes := putCode r.bytes c.g.width (i * c.cols + j) new }
  | .outlier i j _ new =>
    let q := (i * c.cols + j) / 4 * 4
    { r with bytes := putCode (putCode r.bytes 4 (q + 1) (new % 16)) 4 (q + 2) (new / 16) }
  | .scale i b _ new => { r with bytes := mset r.bytes (c.soff + i * c.blocks + b) (BitVec.ofNat 8 new) }
/-- Mark the rows and columns of cells as poisoned in the sidecar (15 R255). -/
def Range.markLines (r : Range) (cells : List (Nat × Nat)) : Range :=
  { r with side := r.side.mark cells }
/-- Mark cells poisoned, and every row and column that holds a poisoned element: of a K4X quad, all four (03 R57). -/
def Range.poisonCells (c : TileRec) (r : Range) (cells : List (Nat × Nat)) : Range :=
  let hs := cells.flatMap fun x => halves c.g.width (x.1 * c.cols + x.2)
  let r := { r with poison := hs.foldl sadd r.poison }
  let mates (n : Nat) : List Nat := if c.g == .k4x then (List.range 4).map (n / 4 * 4 + ·) else [n]
  r.markLines ((cells.flatMap fun x => mates (x.1 * c.cols + x.2)).map fun n => (n / c.cols, n % c.cols))
/-- 15 R260: poison rows and columns. -/
def Range.poisonLines (c : TileRec) (r : Range) (rm cm : List Nat) : Range :=
  r.poisonCells c ((rm.flatMap fun i => (List.range c.cols).map fun j => (i, j)) ++
    (cm.flatMap fun j => (List.range c.rows).map fun i => (i, j)))
/-- 15 R257. -/
def Range.resum (r : Range) (c : TileRec) : Range :=
  if r.side.anyStale then { r with side := (r.view c).resum r.side } else r
/-- 15 R258: a matrix read of a range, of rows and columns in full, after a re-sum where one is needed. The ill-formed quads that the
comparison meets, and those of the whole range where a locate pass decodes it, poison their rows and columns (03 R57). -/
def Range.matrixRead (r : Range) (c : TileRec) (rows cols : List Nat) : Range × List TileEvent :=
  let r := r.resum c
  let r := r.markLines ((r.view c).ill rows cols)
  let (y, evs) := checkTile r (fun r => r.view c) r.side c.tolOf (fun r f => r.fix c f) (fun r rm cm => r.poisonLines c rm cm) rows cols
  (if evs.isEmpty then y else y.markLines ((r.view c).ill (List.range c.rows) []), evs)

/-- Rows and columns that hold bytes from `off` on (data or scales): made stale, and poisoned where `p`. -/
def Range.touch (r : Range) (off n : Nat) (p : Bool) : Range :=
  match r.record with
  | none => r
  | some d =>
    let c := tileRec d
    let w := c.g.width
    let quad (k : Nat) : List Nat := if p && c.g == .k4x then (List.range 4).map (k / 4 * 4 + ·) else [k]
    let cells := (List.range n).flatMap fun k =>
      let b := off + k
      if b < c.size then
        ((if w == 4 then [2 * b, 2 * b + 1] else [8 * b / w]).flatMap quad).map fun x => (x / c.cols, x % c.cols)
      else if c.sc && c.soff ≤ b && b < c.soff + c.rows * c.blocks then
        let i := (b - c.soff) / c.blocks
        let q := (b - c.soff) % c.blocks
        ((List.range c.cols).filter fun j => min (j / c.len) (c.blocks - 1) == q).map fun j => (i, j)
      else []
    let upd (l : List Nat) (t : Tbl Comp) : Tbl Comp :=
      t.map fun (i, x) => (i, if i ∈ l then { x with stale := true, poison := x.poison || p } else x)
    { r with side := { rows := upd (cells.map (·.1)) r.side.rows, cols := upd (cells.map (·.2)) r.side.cols } }
/-- Write bytes into a range: the sidecar's rows and columns of them become stale; `pois` is per byte. -/
def Range.write (r : Range) (off : Nat) (l : List Byte) (p : Bool) : Range :=
  let hs := (List.range (2 * l.length)).map (2 * off + ·)
  let r := { r with bytes := msets r.bytes off l,
                    poison := if p then hs.foldl sadd r.poison else if r.poison.isEmpty then [] else r.poison.filter fun h => !(h ∈ hs) }
  r.touch off l.length p
/-- Are half-bytes of a run of bytes poisoned? -/
def Range.marked (r : Range) (off n : Nat) : Bool := r.poison.any fun h => 2 * off ≤ h && h < 2 * (off + n)

/-! Parts of the state. -/

/-- A range of a team; an empty one has no granules. -/
def State.range (s : State) (tk k : Nat) : Range := match s.team tk with | some m => tget m.ranges k {} | none => {}
def State.setRange (s : State) (tk k : Nat) (r : Range) : State := s.modTeam tk fun m => { m with ranges := tset m.ranges k r }
/-- Granules of a team. -/
def Team.granules (m : Team) : Nat := (m.ranges.map (·.2.gran)).foldl (· + ·) 0
/-- 22 R349: the granules of teams whose save records are being written. -/
def State.savingGranules (s : State) (core : Nat) : Nat :=
  ((s.core core).slots.map fun e => match e.2.st, e.2.saved.bind (tget? s.saves) with
    | .saving, some v => v.team.granules
    | _, _ => 0).foldl (· + ·) 0
/-- Free granules of a core's store (15 R249). -/
def State.freeGranules (s : State) (core : Nat) : Nat :=
  Config.granules - ((s.teams.filter fun e => coreOf e.1 == core).map (·.2.granules)).foldl (· + ·) 0 - s.savingGranules core

/-- Records of what checks found, from a source and under the names of `nm`; the tile is named by `name` in DETAIL 31:20: bits 3:0 handle
or sidecar, bits 9:8 0 a range, 1 a fragment, 2 an accumulator, whose address stands in ADDR and the codes of its correction in a
continuation (log 31). -/
def State.tileEventsBy (s : State) (src : Nat) (nm : Rec → Rec) (mask pc addr name : Nat) (l : List TileEvent) : State :=
  let put (s : State) (cause kind a detail : Nat) : State :=
    s.emit src (nm { typ := 0, b0 := cause + 256 * kind, f24 := a, f32 := pc, f48 := mask + 2 ^ 32 * (detail % 2 ^ 32) })
  let more (s : State) (cause kind a b c : Nat) : State :=
    s.emit src { nm { typ := 0, b0 := cause + 256 * kind, f24 := a, f32 := b, f48 := c, flags := 1 } with ctx := none }
  overAll l (fun s e => match e with
    | .corrected i j c o n =>
      let codes := o + 2 ^ 32 * n
      let s := put s 59 kEvent (if addr == 0 then codes else addr) (i + 2 ^ 7 * j + 2 ^ 16 * c + 2 ^ 20 * name)
      if addr == 0 then s else more s 59 kEvent codes 0 0
    | .mismatch rm cm =>
      let s := put s 21 kPoison addr (2 ^ 20 * name)
      let cont (s : State) (which : Nat) (l : List Nat) : State := more s 21 kPoison (maskOf l % 2 ^ 64) (maskOf l / 2 ^ 64) which
      cont (cont s 0 rm) 1 cm) s
/-- The same for threads of a group. -/
def State.tileEvents (s : State) (tk g : Nat) (lanes : List Nat) (pc addr name : Nat) (l : List TileEvent) : State :=
  s.tileEventsBy (coreOf tk) (s.nameRec tk g lanes) (maskOf lanes) pc addr name l

/-! Reservations (15 R250, R251; 20 R348). -/

/-- 15 R250: can the oldest request be granted? One grant, or one failed request. -/
def State.rsvStep (s : State) (core : Nat) : Option State :=
  let c := s.core core
  let dead (r : Rsv) : Bool := r.threads.all fun t => ((s.thread r.tk r.g t).getD { st := .exited }).exited
  match c.rsv.find? dead with
  | some r => some (s.setCore core { c with rsv := c.rsv.filter (· != r) })
  | none =>
    match c.rsv with
    | [] => none
    | r :: rest =>
      let free := s.freeGranules core
      let fail (s : State) (y : Rsv) (sub : Nat) : State :=
        let s := s.setCore core { c with rsv := c.rsv.filter (· != y) }
        let s := s.modGroup y.tk y.g fun m => m.release y.threads (· == .rsv y.k)
        s.trapAll y.tk y.g (y.threads.filter fun t => !((s.thread y.tk y.g t).getD { st := .exited }).exited) fun _ =>
          { cause := 39, xpc := y.pc, widx := y.widx, xdet := clean (wn sub), detail := sub }
      -- an earlier request has filled its handle meanwhile (log 34)
      if (s.range r.tk r.k).gran ≠ 0 then some (fail s r 0)
      else if r.n ≤ free then
        let s := (s.setCore core { c with rsv := rest }).setRange r.tk r.k { gran := r.n }
        some (s.modGroup r.tk r.g fun m => m.release r.threads (· == .rsv r.k))
      else
        let teams := s.teams.filter fun e => coreOf e.1 == core
        let holders := (teams.filter fun e => 0 < e.2.granules).map (·.1)
        let waits (tk : Nat) : Bool := c.rsv.any (·.tk == tk)
        let releasing := s.savingGranules core ≠ 0 || teams.any fun e => (e.2.drain && 0 < e.2.granules) || e.2.ranges.any (·.2.rel)
        if releasing || holders.isEmpty || !holders.all waits then none else
        let mine := c.rsv.filter fun r => r.tk ∈ holders
        let youngest := mine.foldl (fun (y : Option Rsv) r => match y with
          | none => some r
          | some z => if z.dt < r.dt || (z.dt == r.dt && z.tk ≤ r.tk) then some r else y) none
        match youngest with
        | none => none
        | some y => some (fail s y 1)
/-- Grant and fail requests of a core until nothing more follows. -/
def State.rsvSettle (s : State) (core : Nat) : State :=
  let rec go (n : Nat) (s : State) : State :=
    match n with
    | 0 => s
    | n + 1 => match s.rsvStep core with | some s => go n s | none => s
  go ((s.core core).rsv.length + 1) s

/-- Is a copy reading or writing a range? (15 R251) -/
def State.rangeBusy (s : State) (tk k : Nat) : Bool :=
  s.copies.any fun c => c.2.team == some tk && c.2.slices.any fun x =>
    x.2.handle == some k && c.2.started && !x.2.ended && !x.2.empty
/-- 21 R340; 22 R350: admission is tested again at the slots of a core, or at those of its restores alone. -/
def State.retestCore (s : State) (core : Nat) (restores : Bool) : State :=
  s.modCore core fun c => { c with slots := c.slots.map fun (n, x) => (n, { x with retest := x.retest || !restores || x.save.isSome }) }
/-- 15 R251: releases that waited for copies. -/
def State.relSettle (s : State) (tk : Nat) : State :=
  match s.team tk with
  | none => s
  | some m =>
    let done := (m.ranges.filter fun e => e.2.rel && !s.rangeBusy tk e.1).map (·.1)
    if done.isEmpty then s else
    ((s.modTeam tk fun m => { m with ranges := done.foldl terase m.ranges }).rsvSettle (coreOf tk)).retestCore (coreOf tk) true

/-- The mould of an instruction of class T that acts once, with a scalar or pair operand read for the lowest thread. -/
def State.tileOnce (s : State) (f : FR) (op : State → Issue → List Nat → State) : State :=
  let (s, ps) := s.parts f.ext
  match s.cur with
  | none => s
  | some i => if ps.isEmpty then s.shiftEmpty else (op s i ps).shiftEmpty

/-- A trap of every participating thread with a subcode in XDET. -/
def State.subTrap (s : State) (i : Issue) (ps : List Nat) (cause sub : Nat) : State :=
  s.trapAll i.tk i.g ps fun _ => { i.trap cause with xdet := clean (wn sub), detail := sub }

def execTsRsv (f : FR) (s : State) : Host.Outcome State Fault Refusal :=
  .next (s.tileOnce f fun s i ps =>
    let k := f.d.toNat
    let x := s.src i kInt (ps.headD 0) f.a.toNat
    let n := x.val.toNat
    if x.poison then s.killAll i.tk i.g ps 25 i.pc
    else if n == 0 || 4096 < n || (s.range i.tk k).gran ≠ 0 then s.subTrap i ps 39 0
    else
      let r : Rsv := { tk := i.tk, g := i.g, k := k, n := n, dt := s.dt, threads := ps, pc := i.pc, widx := i.widx }
      -- the older: an earlier DT, then the lower team slot
      let older (q : Rsv) : Bool := q.dt < r.dt || (q.dt == r.dt && q.tk ≤ r.tk)
      let s := s.modCore (coreOf i.tk) fun c => { c with rsv := c.rsv.filter older ++ r :: c.rsv.filter (!older ·) }
      (s.willWait (ps.map fun t => (t, .rsv k))).rsvSettle (coreOf i.tk))

def execTsRel (f : FR) (s : State) : Host.Outcome State Fault Refusal :=
  .next (s.tileOnce f fun s i ps =>
    let k := f.d.toNat
    let r := s.range i.tk k
    if r.gran == 0 then s.subTrap i ps 39 2
    else if s.rangeBusy i.tk k then s.setRange i.tk k { r with rel := true }
    else ((s.modTeam i.tk fun m => { m with ranges := terase m.ranges k }).rsvSettle (coreOf i.tk)).retestCore (coreOf i.tk) true)

def execTsRec (f : FR) (s : State) : Host.Outcome State Fault Refusal :=
  .next (s.tileOnce f fun s i ps =>
    let k := f.d.toNat
    let x := s.pair i (ps.headD 0) f.a.toNat
    let r := s.range i.tk k
    if x.poison || r.gran == 0 || recordRefused x.val r.gran then s.trapAll i.tk i.g ps fun _ => i.trap 40
    else
      let r := { r with record := some x.val }
      s.setRange i.tk k { r with side := (r.view (tileRec x.val)).allStale })

/-- 15 R262: is an offset within a range and a multiple of 4? -/
def Range.holds (r : Range) (off : Nat) : Bool := off % 4 == 0 && off < 512 * r.gran

def execTsWr (f : FR) (s : State) : Host.Outcome State Fault Refusal :=
  let (s, ps) := s.parts f.ext
  .next (match s.cur with
  | none => s
  | some i =>
    let k := f.d.toNat
    let a (t : Nat) : PWord := s.src i kInt t f.a.toNat
    let b (t : Nat) : PWord := s.src i kInt t f.b.toNat
    let s := s.killAll i.tk i.g (ps.filter fun t => (a t).poison) 25 i.pc
    let live := (s.cur.map (·.live)).getD []
    (overAll (ps.filter (· ∈ live)) (fun s t =>
      let r := s.range i.tk k
      let off := (a t).val.toNat
      if !r.holds off then s.fault i.tk i.g [t] 19 kPoison off i.pc 0
      else s.setRange i.tk k (r.write off (leBytes 4 (b t).val.toNat) (b t).poison)) s).shiftEmpty)

def execTsRd (f : FR) (s : State) : Host.Outcome State Fault Refusal :=
  let (s, ps) := s.parts f.ext
  .next (match s.cur with
  | none => s
  | some i =>
    let k := f.b.toNat
    let a (t : Nat) : PWord := s.src i kInt t f.a.toNat
    let s := s.killAll i.tk i.g (ps.filter fun t => (a t).poison) 25 i.pc
    let live := (s.cur.map (·.live)).getD []
    let ps := ps.filter (· ∈ live)
    if ps.isEmpty then s.shiftEmpty else
    let r := s.range i.tk k
    let (_, s) := s.newOp i f.ext ps (if f.w then [] else [f.d.toNat]) 0
    let s := overAll (ps.filter fun t => !r.holds (a t).val.toNat) (fun s t =>
      s.fault i.tk i.g [t] 19 kPoison (a t).val.toNat i.pc 0) s
    let value (t : Nat) : PWord :=
      let off := (a t).val.toNat
      if !r.holds off || r.marked off 4 then poisoned else clean (wn (leNat (mgets r.bytes off 4)))
    (s.putDest i f.w f.d.toNat (ps.map fun t => (t, [value t]))).shiftEmpty)

/-- 15 R261: `ts.sync` and `ts.ck`: their work on a range with a record. -/
def State.tileWork (s : State) (f : FR) (work : Range → TileRec → Range × List TileEvent) : State :=
  s.tileOnce f fun s i ps =>
    let k := f.d.toNat
    let r := s.range i.tk k
    match r.record with
    | none => s.trapAll i.tk i.g ps fun _ => i.trap 40
    | some d =>
      let (_, s) := s.newOp i f.ext ps [] 0
      let (r, evs) := work r (tileRec d)
      (s.setRange i.tk k r).tileEvents i.tk i.g ps i.pc 0 k evs
def execTsSync (f : FR) (s : State) : Host.Outcome State Fault Refusal :=
  .next (s.tileWork f fun r c => (r.resum c, []))
def execTsCk (f : FR) (s : State) : Host.Outcome State Fault Refusal :=
  .next (s.tileWork f fun r c => r.matrixRead c (List.range c.rows) (List.range c.cols))

/-- 15 R261: the component that a selector names. -/
def Range.component (r : Range) (a : PWord) : PWord :=
  match r.record with
  | none => poisoned
  | some d =>
    let c := tileRec d
    let x := a.val.toNat
    let n := x % 128
    let col := x.testBit 7
    if a.poison then poisoned else if (if col then c.cols else c.rows) ≤ n then clean 0 else
    let y := if col then tget r.side.cols n {} else tget r.side.rows n {}
    if y.stale || y.poison then poisoned
    else clean (match field x 8 2 with | 0 => y.exact | 1 => y.fp | 2 => y.mag | _ => y.scale)

def execTsCks (f : FR) (s : State) : Host.Outcome State Fault Refusal :=
  let (s, ps) := s.parts f.ext
  .next (match s.cur with
  | none => s
  | some i =>
    let r := s.range i.tk f.b.toNat
    s.finish i f.w f.d.toNat (ps.map fun t => (t, [r.component (s.src i kInt t f.a.toNat)])))

end Sys2Proof.Machine
end

