-- ==== Sys2Proof/Machine/Matrix.lean ====
section
/-! DEFINITION. Fragments (15 R263-R266), gangs and the rendezvous latch (R267-R269), the matrix step (R270-R273; 03 R70-R72),
commits and closes as they leave the core (15 R275-R277). -/

namespace Sys2Proof.Machine

/-! Fragments (15 R263, R264). -/

/-- The word of a fragment: registers from logical register `base` on, 32 threads each. -/
def Group.fragWord (m : Group) (base w : Nat) : PWord := tget (m.thread (w % 32)).v ((base + w / 32) % m.ba) (clean 0)
/-- 15 R263: a sidecar's quarter as a tile of 16 rows of Ks, from words. -/
def Frag.viewOf (f : Frag) (word : Nat → PWord) : View :=
  let g := Fmt.ofCode f.fmt
  let w := g.width
  let d := f.count - f.sc.toNat
  let at8 (o : Nat) : PWord := word (32 * d + o / 4)
  let blocks := if f.sc then max 1 (f.ks / f.len) else 1
  { fmt := g, sc := f.sc, len := if f.sc then f.len else f.ks, rows := 16, cols := f.ks
    code := fun n => field (word (n * w / 32)).val.toNat (n * w % 32) w
    bad := fun n => (word (n * w / 32)).poison
    scale := fun i b => field (at8 (i * blocks + b)).val.toNat (8 * ((i * blocks + b) % 4)) 8
    badScale := fun i b => (at8 (i * blocks + b)).poison }
/-- The quarter as the group's registers hold it. -/
def Group.fragView (m : Group) (f : Frag) : View :=
  let a := ((List.range (32 * f.count)).map (m.fragWord f.base)).toArray
  f.viewOf fun w => a.getD w (clean 0)

/-- Write a word of a fragment: by the load or a correction, which raise no hazard and leave the sidecars (15 R264). -/
def Group.putFrag (m : Group) (base w : Nat) (x : PWord) : Group :=
  { m with th := tmod m.th (w % 32) fun th => { th with v := tset th.v ((base + w / 32) % m.ba) x } }
/-- Change a field of a fragment's word. -/
def Group.putField (m : Group) (base bit len v : Nat) : Group :=
  let w := bit / 32
  let x := (m.fragWord base w).val.toNat
  let lo := bit % 32
  m.putFrag base w (clean (wn (x - field x lo len * 2 ^ lo + v % 2 ^ len * 2 ^ lo)))
/-- 15 R259, R272: a correction of a fragment. -/
def Group.fixFrag (f : Frag) (m : Group) (x : Fix) : Group :=
  let w := (Fmt.ofCode f.fmt).width
  match x with
  | .elem i j _ new => m.putField f.base ((i * f.ks + j) * w) w new
  | .outlier i j _ new => m.putField f.base (((i * f.ks + j) / 4 * 4 + 1) * 4) 8 new
  | .scale i b _ new => m.putField f.base (1024 * (f.count - f.sc.toNat) + 8 * (i * max 1 (f.ks / f.len) + b)) 8 new
/-- 15 R260: poison rows and columns of a fragment: the words that hold them. -/
def Group.poisonFrag (f : Frag) (k : Nat) (m : Group) (rm cm : List Nat) : Group :=
  let w := (Fmt.ofCode f.fmt).width
  let cells := (rm.flatMap fun i => (List.range f.ks).map fun j => i * f.ks + j) ++
    (cm.flatMap fun j => (List.range 16).map fun i => i * f.ks + j)
  let m := ((cells.map fun n => n * w / 32).eraseDups).foldl (fun m x => m.putFrag f.base x poisoned) m
  let v := m.fragView f
  let hit (l : List (Nat × Nat)) : Bool := l.any fun c => (v.raw c.1 c.2).isNone
  let side : Sidecar :=
    { rows := f.side.rows.map fun (i, x) => (i, if hit ((List.range f.ks).map fun j => (i, j)) then { x with poison := true } else x)
      cols := f.side.cols.map fun (j, x) => (j, if hit ((List.range 16).map fun i => (i, j)) then { x with poison := true } else x) }
  { m with fs := tset m.fs k { f with side := side } }
/-- 15 R272: a holder's check of a quarter; a stale sidecar is re-summed first. A fragment's
sidecar has no TOL: the default tolerance applies (log 109). -/
def Group.checkFrag (m : Group) (k : Nat) : Group × List TileEvent :=
  let f := tget m.fs k {}
  let f := if f.st == .stale then { f with st := .fresh, side := (m.fragView f).fresh } else f
  let m := { m with fs := tset m.fs k f }
  checkTile m (fun m => m.fragView f) f.side (tolDefault (Fmt.ofCode f.fmt)) (Group.fixFrag f) (Group.poisonFrag f k)
    (List.range 16) (List.range f.ks)

/-- 15 R248: does the candidate hold every live thread of the group? -/
def State.whole (s : State) (i : Issue) : Bool :=
  match s.group i.tk i.g with
  | none => false
  | some m => m.liveThreads.all (· ∈ i.cand)
/-- The rendezvous fault (15 R248, R269). -/
def State.rendezvousFault (s : State) (i : Issue) (ps : List Nat) (sub : Nat) : State := s.subTrap i ps 41 sub
/-- 15 R265, 01 R34: the register-range trap found at issue. -/
def State.rangeTrap (s : State) (i : Issue) (ps : List Nat) : State := s.trapAll i.tk i.g ps fun _ => i.trap 31

/-- 15 R265: the words of quarter `q` of a range: its data, then its scales; a word with a poisoned half-byte is poison. -/
def Range.quarterWords (r : Range) (c : TileRec) (q ks : Nat) : List PWord × List PWord :=
  let nb := 16 * ks * c.g.width / 8
  let sb := 16 * c.blocks
  let take (off n : Nat) : List PWord := (List.range (n / 4)).map fun w =>
    pw (wn (leNat (mgets r.bytes (off + 4 * w) 4))) (r.marked (off + 4 * w) 4)
  (take (nb * q) nb, if c.sc then take (c.soff + sb * q) sb else [])

def execFragLd (f : FR) (s : State) : Host.Outcome State Fault Refusal :=
  .next (s.tileOnce f fun s i ps =>
    let k := f.b.toNat
    let x := s.src i kInt (ps.headD 0) f.a.toNat
    if !s.whole i then s.rendezvousFault i ps 7
    else if x.poison then s.killAll i.tk i.g ps 25 i.pc
    else
      let r := s.range i.tk k
      match r.record, s.group i.tk i.g with
      | some d, some m =>
        let c := tileRec d
        if c.rows ≠ 64 || !(c.cols ∈ [8, 32, 64, 128]) || fmtKs c.fmt < c.cols then s.rendezvousFault i ps 6 else
        let cnt := fragRegs c.fmt c.cols c.sc
        if m.window < f.d.toNat + cnt then s.rangeTrap i ps else
        let q := x.val.toNat % 4
        let (r, evs) := r.matrixRead c ((List.range 16).map (16 * q + ·)) []
        let s := (s.setRange i.tk k r).tileEvents i.tk i.g ps i.pc 0 k evs
        let (_, s) := s.newOp i f.ext (List.range 32) ((List.range cnt).map (f.d.toNat + ·)) 0
        let base := (m.thread (ps.headD 0)).wb + f.d.toNat
        let (data, scales) := r.quarterWords c q c.cols
        let dregs := cnt - c.sc.toNat
        let (n, s) := s.draw
        let word (w : Nat) : PWord :=
          if w < 32 * dregs then data.getD w (clean (Config.fragPad (n + w)))
          else scales.getD (w - 32 * dregs) (clean (Config.fragPad (n + w)))
        s.modGroup i.tk i.g fun m =>
          let m := (List.range (32 * cnt)).foldl (fun m w => m.putFrag base w (word w)) m
          let fr : Frag := { st := .fresh, base := base, fmt := c.fmt, sc := c.sc, len := c.len, ks := c.cols, quarter := q }
          { m with fs := tset m.fs (immOf f.ext % 2) { fr with side := (m.fragView fr).fresh } }
      | _, _ => s.rendezvousFault i ps 6)

/-! Gangs (15 R267). -/

/-- The group at each gang position; none where there is no gang. -/
def gangList (x : Word) : List Nat :=
  let nm1 := field x.toNat 16 2
  if nm1 == 0 then [] else (List.range (nm1 + 1)).map fun j => field x.toNat (4 * j) 4
/-- Quarters of a gang position, rising. -/
def quartersOf (n j : Nat) : List Nat := (List.range 4).filter fun q => q % n == j

/-- 15 R266: the checksums of a fragment that its registers hold. The quarter of a group that its own gang does not list is that of
position 0: the rule gives it no position (log 127). -/
def execFragCks (f : FR) (s : State) : Host.Outcome State Fault Refusal :=
  .next (s.tileOnce f fun s i ps =>
    if !s.whole i then s.rendezvousFault i ps 7 else
    let im := immOf f.ext
    let j := im % 2
    s.modGroup i.tk i.g fun m =>
      let gl := gangList m.gang
      let q := if gl.isEmpty then j else (gl.findIdx? (· == i.g)).getD 0 + gl.length * j
      let base := (m.thread (ps.headD 0)).wb + f.d.toNat
      let fr : Frag := { st := .fresh, base := base, fmt := field im 5 4, sc := im.testBit 4, len := 16 * 2 ^ field im 2 2,
                         ks := ksOf (field im 9 2), quarter := q }
      { m with fs := tset m.fs j { fr with side := (m.fragView fr).fresh } })

def execGangSet (f : FR) (s : State) : Host.Outcome State Fault Refusal :=
  .next (s.tileOnce f fun s i ps =>
    let x := s.src i kInt (ps.headD 0) f.a.toNat
    if x.poison then s.killAll i.tk i.g ps 26 i.pc
    else s.modGroup i.tk i.g fun m => { m with gang := x.val, gseq := 0 })

/-! The rendezvous latch (15 R268, R269). -/

/-- The deposit of a number by a group. -/
def State.deposit (s : State) (tk g seq : Nat) : Option Deposit :=
  (s.core (coreOf tk)).latch.find? fun d => d.tk == tk && d.g == g && d.seq == seq
def Deposit.is (d e : Deposit) : Bool := d.tk == e.tk && d.g == e.g && d.seq == e.seq
/-- Replace a deposit, or add it. -/
def State.putDeposit (s : State) (d : Deposit) : State :=
  s.modCore (coreOf d.tk) fun c => { c with latch := c.latch.filter (fun e => !e.is d) ++ [d] }
def State.dropDeposit (s : State) (tk g seq : Nat) : State :=
  s.modCore (coreOf tk) fun c => { c with latch := c.latch.filter fun e => !(e.tk == tk && e.g == g && e.seq == seq) }

/-- Has a listed group nothing left to deposit: no such group, or Exited or retired? -/
def Team.gone (m : Team) (g : Nat) : Bool :=
  match tget? m.groups g with
  | none => true
  | some x => x.retired || x.notExited.isEmpty
/-- The gang of a group: itself alone where its register does not list it (row 0 of R269). -/
def Team.gangOf (m : Team) (g : Nat) : List Nat :=
  let gl := gangList (m.group g).gang
  if g ∈ gl then gl else [g]
/-- 15 R268: has every listed group that the team has deposited the number? -/
def State.deposited (s : State) (tk g seq : Nat) : Bool :=
  match s.team tk with
  | none => false
  | some m => (m.gangOf g).all fun x => (tget? m.groups x).isNone || (s.deposit tk x seq).isSome
/-- Has every listed group that deposited reached its word, or left since? Then the joint step can start. -/
def State.startable (s : State) (tk g seq : Nat) : Bool :=
  match s.team tk with
  | none => false
  | some m => (m.gangOf g).all fun x =>
      match s.deposit tk x seq with
      | some d => (d.ready || m.gone x) && !d.started
      | none => (tget? m.groups x).isNone && x != g

/-- 15 R269: the subcode of the first check that fails. -/
def State.verdict (s : State) (tk g seq : Nat) : Option Nat :=
  match s.team tk with
  | none => some 0
  | some m =>
    let gl := gangList (m.group g).gang
    let n := gl.length
    let deps := gl.filterMap fun x => s.deposit tk x seq
    let d0 := deps.headD default
    let recs := (List.range n).map fun j => ((tget m.ranges (d0.k + j) {}).record).map tileRec
    let known := recs.filterMap id
    let sides := deps.flatMap fun d =>
      (quartersOf n ((gl.findIdx? (· == d.g)).getD 0)).zipIdx.map fun (q, k) => (d, q, k, tget (m.group d.g).fs k {})
    let okSide (x : Deposit × Nat × Nat × Frag) : Bool :=
      let (d, q, k, f) := x
      let wb := ((m.group d.g).thread (d.cand.headD 0)).wb
      f.st != .empty && f.base == wb + d.vb + k * f.count && f.quarter == q
    let f0 := match sides with | x :: _ => x.2.2.2 | [] => {}
    let pairKs := known.head?.map fun r => if fmtKs r.fmt == 0 then f0.ks else min (fmtKs r.fmt) (fmtKs f0.fmt)
    let run : RunFmt := { fa := (known.head?.map (·.fmt)).getD 0, la := (known.head?.map fun r => if r.sc then r.len else 0).getD 0,
                          fb := f0.fmt, lb := if f0.sc then f0.len else 0 }
    if !(g ∈ gl) || deps.any fun d => !(d.g ∈ gangList (m.group d.g).gang) then some 0
    else if (gl.map (· % 4)).eraseDups.length < n || gl.any fun x => m.groups.length ≤ x then some 1
    else if deps.any fun d => gangList (m.group d.g).gang != gl then some 2
    else if gl.any m.gone then some 3
    else if (deps.any fun d => d.z != d0.z || d.step != d0.step || d.k != d0.k) ||
        ((known.map fun r => (r.fmt, r.sc, r.blk, r.cols)).eraseDups.length > 1) then some 4
    else if !sides.all okSide || (sides.any fun x =>
        let f := x.2.2.2; f.fmt != f0.fmt || f.sc != f0.sc || (f.sc && f.len != f0.len) || f.ks != f0.ks) ||
        pairKs.any (· != f0.ks) then some 5
    else if 15 < d0.k + n - 1 || recs.any fun r => match r with
        | none => true
        | some r => r.rows ≠ 64 || fmtKs r.fmt == 0 || r.cols % f0.ks ≠ 0 || r.cols / f0.ks ≤ d0.step
      then some 6
    else if deps.any (!·.whole) then some 7
    else if deps.any fun d => !d.z && ((m.group d.g).staging.run.any (· != run)) then some 8
    else if deps.any fun d =>
        (m.group d.g).window < d.vb + f0.count * (quartersOf n ((gl.findIdx? (· == d.g)).getD 0)).length then some 9
    else none

/-- 15 R269: every listed group that deposited takes the rendezvous fault. -/
def State.rendezvousTraps (s : State) (tk : Nat) (deps : List Deposit) (sub : Nat) : State :=
  overAll deps (fun s d => s.trapAll tk d.g d.cand fun _ =>
    { cause := 41, xpc := d.pc, widx := d.widx, xdet := clean (wn sub), detail := sub }) s

/-! The step (15 R270-R273; 03 R70-R72). -/

/-- 03 R70: the sum length of block lengths, 0 for an operand with no scales. -/
def sumLen (la lb : Nat) : Nat := if la == 0 && lb == 0 then 32 else if la == 0 then lb else if lb == 0 then la else min la lb
/-- 03 R70: what the K extent is a multiple of. -/
def kUnit (la lb : Nat) : Nat := if la == 0 && lb == 0 then 32 else max la lb

/-- Exact sum, none where a term is poisoned. -/
def sumOpt (l : List (Option Num)) : Option Num :=
  l.foldl (fun a x => match a, x with | some a, some x => some (Num.add false a x) | _, _ => none) (some .zero)
def mulOpt (x y : Option Num) : Option Num := match x, y with | some x, some y => some (x.mul y) | _, _ => none
/-- A staged sum and a term: one rounding, poison carried. -/
def accAdd (old : PWord) (x : Option Num) : PWord :=
  match x with
  | some x => if old.poison then poisoned else clean (rndF32 (Num.add false (val .f32 old.val.toNat) x))
  | none => poisoned
/-- Entries that differ from +0. -/
def stored (l : List (Nat × PWord)) : Tbl PWord := l.filter fun e => e.2.poison || e.2.val ≠ 0

/-- 15 R271: one element's open sum and staged value over the columns of a step. -/
def elemStep (kpos len : Nat) (acc : Word) (opn : Num) (l : List (Num × Num)) : Word × Num :=
  let (acc, opn, _) := l.foldl (fun (acc, opn, k) (x, y) =>
    let opn := Num.add false opn (x.mul y)
    if (k + 1) % len == 0 then (rndF32 (Num.add false (val .f32 acc.toNat) opn), Num.zero, k + 1) else (acc, opn, k + 1))
    (acc, opn, kpos)
  (acc, opn)

/-- 15 R271, R273: one step of a group: `a` is A by row, `b` is B by column n, each a list over c. -/
def Staging.step (st : Staging) (z : Bool) (ks : Nat) (run : RunFmt) (a b : Nat → List (Option Num)) : Staging :=
  let st : Staging := if z then {} else st
  let len := sumLen run.la run.lb
  let acc := st.acc
  let aa := ((List.range 64).map a).toArray
  let bb := ((List.range 64).map b).toArray
  let res := (List.range 4096).map fun x =>
    let ra := aa.getD (x / 64) []
    let rb := bb.getD (x % 64) []
    let old := tget acc x (clean 0)
    if old.poison || ra.contains none || rb.contains none then (x, poisoned, Num.zero) else
    let (v, o) := elemStep st.kpos len old.val (tget st.opn x .zero) ((ra.filterMap id).zip (rb.filterMap id))
    (x, clean v, o)
  let col (m : Array (List (Option Num))) (f : Num → Num) : List (Option Num) :=
    (List.range ks).map fun c => sumOpt ((List.range 64).map fun i => ((m.getD i []).getD c none).map f)
  let dot (x y : List (Option Num)) : Option Num := sumOpt (List.zipWith mulOpt x y)
  let absAll (l : List (Option Num)) := l.map fun (x : Option Num) => x.map Num.abs
  let ca := col aa id
  let cm := col aa Num.abs
  let rb := col bb id
  let rm := col bb Num.abs
  let upd (t : Tbl PWord) (f : Nat → Option Num) : Tbl PWord :=
    stored ((List.range 64).map fun i => (i, accAdd (tget t i (clean 0)) (f i)))
  { acc := stored (res.map fun r => (r.1, r.2.1))
    opn := (res.filter fun r => !r.2.2.isZero).map fun r => (r.1, r.2.2)
    kpos := st.kpos + ks
    pcol := upd st.pcol fun n => dot ca (bb.getD n [])
    mcol := upd st.mcol fun n => dot cm (absAll (bb.getD n []))
    prow := upd st.prow fun i => dot (aa.getD i []) rb
    mrow := upd st.mrow fun i => dot (absAll (aa.getD i [])) rm
    run := some run }

/-- 15 R270: an array queues work of some cycles (25 R393). -/
def State.arrayWork (s : State) (tk g n : Nat) : State :=
  s.modCore (coreOf tk) fun c =>
    let l := (tget c.arrays (g % 4) []).filter (s.dt < ·)
    { c with arrays := tset c.arrays (g % 4) (l ++ [max s.dt (l.getLastD 0) + s.cycles (coreOf tk) n]) }

/-- 15 R268-R273: the joint step of a gang, or the rendezvous fault in every listed group that deposited. -/
def State.jointStart (s : State) (tk g seq : Nat) : State :=
  match s.team tk with
  | none => s
  | some m =>
    let gl := m.gangOf g
    let deps := gl.filterMap fun x => s.deposit tk x seq
    let done (s : State) : State := overAll deps (fun s d => s.putDeposit { d with started := true }) s
    match s.verdict tk g seq with
    | some sub =>
      done (s.rendezvousTraps tk deps sub)
    | none =>
      let n := gl.length
      let pos (d : Deposit) : Nat := (gl.findIdx? (· == d.g)).getD 0
      -- R272: quarters are checked at their holders
      let s := overAll deps (fun s d => overAll (quartersOf n (pos d)).zipIdx (fun s x =>
        match s.group tk d.g with
        | none => s
        | some gr =>
          let (gr, evs) := gr.checkFrag x.2
          (s.modGroup tk d.g fun _ => gr).tileEvents tk d.g d.cand d.pc 0 (256 + x.2) evs) s) s
      let quarters := deps.flatMap fun d => (quartersOf n (pos d)).zipIdx.map fun (q, k) =>
        let gr := (s.group tk d.g).getD {}
        (q, gr.fragView (tget gr.fs k {}))
      let f0 := tget ((s.group tk (deps.headD default).g).getD {}).fs 0 {}
      let b (j : Nat) : List (Option Num) :=
        match quarters.find? (·.1 == j / 16) with
        | some (_, v) => (List.range f0.ks).map fun c => v.elem (j % 16) c
        | none => []
      overAll deps (fun s d =>
        let k := d.k + pos d
        let r := s.range tk k
        match r.record with
        | none => s
        | some rc =>
          let c := tileRec rc
          let cols := (List.range f0.ks).map (d.step * f0.ks + ·)
          let (r, evs) := r.matrixRead c (if c.cols == f0.ks then List.range 64 else []) cols
          let s := (s.setRange tk k r).tileEvents tk d.g d.cand d.pc 0 k evs
          let v := r.view c
          let run : RunFmt := { fa := c.fmt, la := if c.sc then c.len else 0, fb := f0.fmt, lb := if f0.sc then f0.len else 0 }
          let s := s.modGroup tk d.g fun m => { m with
            staging := m.staging.step d.z f0.ks run (fun i => cols.map fun j => v.elem i j) b }
          s.arrayWork tk d.g 32) (done s)

/-- 15 R268: deposit an `mma` word of a candidate. -/
def State.depositWord (s : State) (i : Issue) (f : FR) (z : Bool) (seq step : Nat) : State :=
  s.putDeposit { tk := i.tk, g := i.g, seq := seq, z := z, vb := f.d.toNat, step := step, k := f.b.toNat, cand := i.cand,
                 pc := i.pc, widx := i.widx }

/-- 15 R268: an `mma` word: it reaches the rendezvous; it is past it once the joint step has started, and stands until then
(log 32). -/
def State.mma (s : State) (f : FR) (z : Bool) (again : Instr) : State :=
  let (s, ps) := s.parts f.ext
  match s.cur with
  | none => s
  | some i =>
    match s.group i.tk i.g with
    | none => s
    | some m =>
      let seq := m.gseq
      let past (s : State) : State :=
        ((s.dropDeposit i.tk i.g seq).modGroup i.tk i.g fun m => { m with gseq := (seq + 1) % 2 ^ 16 }).shiftEmpty
      if ps.isEmpty then past s else
      let x := s.src i kInt (ps.headD 0) f.a.toNat
      if x.poison then past (s.killAll i.tk i.g ps 25 i.pc) else
      if (s.deposit i.tk i.g seq).any (·.started) then past s else
      let s := if (s.deposit i.tk i.g seq).isSome then s else s.depositWord i f z seq x.val.toNat
      let s := match s.deposit i.tk i.g seq with
        | some d => s.putDeposit { d with cand := ps, ready := true, whole := s.whole i }
        | none => s
      if s.startable i.tk i.g seq then past (s.jointStart i.tk i.g seq)
      else s.modCur fun j => { j with words := encode again ++ j.words }
def execMma (f : FR) (s : State) : Host.Outcome State Fault Refusal := .next (s.mma f false (.mma f))
def execMmaZ (f : FR) (s : State) : Host.Outcome State Fault Refusal := .next (s.mma f true (.mmaZ f))

/-- MMA_STEP_START (15 R268): the latch starts a joint step whose deposits are complete. -/
def execMmaStepStart (tk g seq : Nat) (s : State) : Host.Outcome State Fault Refusal :=
  .next (if s.startable tk g seq then s.jointStart tk g seq else s)

/-! Commits and closes (15 R275-R277). -/

/-- An access of a tile, once per candidate. -/
def State.tileAccess (s : State) (i : Issue) (e : Option Ext) (ps : List Nat) (va : Nat) (k : AKind) : State :=
  let (op, s) := s.newOp i e ps [] 1
  match s.team i.tk with
  | none => s
  | some m =>
    let a : Access := { src := coreOf i.tk, kind := k, tk := i.tk, g := i.g, lanes := ps, clause := i.id, ctx := m.ctx,
                        tenant := m.tenant, width := 16384, op := some op, pc := i.pc, dt := s.dt }
    s.issueAccs i.tk i.g [(a, va)]

/-- `commit` and `commit.ord`: the staging accumulator goes to the tile, and the run state is cleared. -/
def State.commit (s : State) (f : FR) (ord : Bool) : State :=
  s.tileOnce f fun s i ps =>
    let a := s.pair i (ps.headD 0) f.a.toNat
    let b := s.src i kInt (ps.headD 0) f.b.toNat
    if a.poison then s.killAll i.tk i.g ps 25 i.pc
    else if ord && b.poison then s.killAll i.tk i.g ps 27 i.pc
    else
      let st := ((s.group i.tk i.g).getD {}).staging
      let unit := match st.run with | some r => kUnit r.la r.lb | none => 32
      if st.kpos % unit ≠ 0 then s.rendezvousFault i ps 8 else
      let c : Contrib := { st := st, index := if ord then some (b.val.toNat % 2 ^ 16) else none }
      let s := s.modGroup i.tk i.g fun m => { m with staging := {} }
      s.tileAccess i f.ext ps a.val.toNat (.commit c)
def execCommit (f : FR) (s : State) : Host.Outcome State Fault Refusal := .next (s.commit f false)
def execCommitOrd (f : FR) (s : State) : Host.Outcome State Fault Refusal := .next (s.commit f true)

def execAccClose (f : FR) (s : State) : Host.Outcome State Fault Refusal :=
  .next (s.tileOnce f fun s i ps =>
    let a := s.pair i (ps.headD 0) f.a.toNat
    let b := s.src i kInt (ps.headD 0) f.b.toNat
    if a.poison then s.killAll i.tk i.g ps 25 i.pc
    else if b.poison then s.killAll i.tk i.g ps 27 i.pc
    else s.tileAccess i f.ext ps a.val.toNat (.close (b.val.toNat % 2 ^ 16) (immOf f.ext % 32)))

end Sys2Proof.Machine
end

