-- ==== Sys2Proof/Machine/Accum.lean ====
section
/-! DEFINITION. Accumulators at their home slices: opening, merging, closing and protocol errors (15 R274-R277; 07 R144). -/

namespace Sys2Proof.Machine

/-- Keys of the 128 lines of a tile, by its four pages. -/
def tileLines (pages : List Nat) : List Nat := pages.flatMap fun p => (List.range 32).map fun j => (p + 128 * j) / 128

/-- 12 R217: has everything else that reached the lines of a tile before what a source does there now been performed? -/
def State.tileTaken (s : State) (pages : List Nat) (src : Nat) : Bool :=
  (tileLines pages).all fun l => s.accs.all fun (_, a) => match a.stage with
    | .net t p => !(a.key / 128 == l && a.space != .sh && !a.isCommit && (t < s.dt || (t == s.dt && p ≤ portOf src (128 * l))))
    | _ => true
/-- 17 R297: is a limb store to a line under way in whose integer another limb has been written? A tile opens after it (log 113). -/
def State.limbSplit (s : State) (line : Nat) : Bool :=
  s.accs.any fun (_, a) => a.limb.isSome && a.isStore && !a.returned && a.key / 128 == line &&
    (match a.stage with | .core | .net _ _ => true | _ => false) && s.accs.any fun (_, b) => b.op == a.op && b.limb == a.limb && !b.returned &&
      match b.stage with | .performed | .back _ => true | _ => false
/-- May its lines be written, having taken no write in this tick? -/
def State.tileFree (s : State) (pages : List Nat) (src : Nat) : Bool := s.tileTaken pages src && (tileLines pages).all s.lineFree
/-- The tile as its checks see it. -/
def Accum.view (a : Accum) : View :=
  let t := a.tile.foldl (fun (x : Array PWord) e => x.set! e.1 e.2) (Array.replicate 4096 (clean 0))
  { fmt := .f32, rows := 64, cols := 64, len := 64, code := fun n => (t.getD n (clean 0)).val.toNat
    bad := fun n => (t.getD n (clean 0)).poison }
/-- The predictions as components of rows and columns. -/
def Accum.side (a : Accum) : Sidecar :=
  let comp (p m : Tbl PWord) (i : Nat) : Comp :=
    let x := tget p i (clean 0)
    let y := tget m i (clean 0)
    { fp := x.val, mag := y.val, poison := x.poison || y.poison }
  { rows := (List.range 64).map fun i => (i, comp a.prow a.mrow i), cols := (List.range 64).map fun i => (i, comp a.pcol a.mcol i) }

/-- 15 R274: open a tile with the value its lines hold. -/
def State.openTile (s : State) (a : Access) : State :=
  if (tget? s.accums (a.key / 128)).isSome then s else
  let words := (tileLines a.pages).flatMap s.lineWords
  let acc : Accum := { ctx := a.ctx, pages := a.pages, tile := stored (words.zipIdx.map fun (x, i) => (i, x)) }
  let v := acc.view
  let comps (f : Nat → Comp) (g : Comp → Word) : Tbl PWord := stored ((List.range 64).map fun i => (i, pw (g (f i)) (f i).poison))
  let acc := { acc with prow := comps v.rowComp (·.fp), mrow := comps v.rowComp (·.mag),
                        pcol := comps v.colComp (·.fp), mcol := comps v.colComp (·.mag) }
  let s := overAll (tileLines a.pages) (fun s l => s.setLine l { s.line l with acc := some (a.key / 128) }) s
  { s with accums := tset s.accums (a.key / 128) acc }

/-- A sum of two FP32 values with poison. -/
def addP (x y : PWord) : PWord := if x.poison || y.poison then poisoned else accAdd x (some (val .f32 y.val.toNat))
/-- 15 R275: merge a contribution. -/
def Accum.merge (a : Accum) (st : Staging) : Accum :=
  let m (n : Nat) (x y : Tbl PWord) : Tbl PWord :=
    stored ((List.range n).map fun i => (i, addP (tget x i (clean 0)) (tget y i (clean 0))))
  { a with tile := m 4096 a.tile st.acc, prow := m 64 a.prow st.prow, pcol := m 64 a.pcol st.pcol,
           mrow := m 64 a.mrow st.mrow, mcol := m 64 a.mcol st.mcol }

/-- 15 R277: a protocol error, recorded with a contributor's name. -/
def State.protocol (s : State) (a : Access) : State :=
  s.emit a.src (s.nameAcc a { typ := 0, b0 := 22 + 256 * kPoison, f24 := a.va, f32 := a.pc, f48 := maskOf a.lanes })

/-- 15 R276: the close of a tile: verify, correct or poison, write the lines as engine writes, release. -/
def State.performClose (s : State) (key : Nat) : State :=
  match tget? s.accums (key / 128) with
  | none => s
  | some acc =>
    match acc.close with
    | none => s
    | some (_, tol, id) =>
      match tget? s.accs id with
      | none => s
      | some a =>
        let fixT (acc : Accum) (f : Fix) : Accum := match f with
          | .elem i j _ new => { acc with tile := tset acc.tile (64 * i + j) (clean (wn new)) }
          | _ => acc
        let poisonT (acc : Accum) (rm cm : List Nat) : Accum :=
          { acc with tile := ((rm.flatMap fun i => (List.range 64).map (64 * i + ·)) ++
              cm.flatMap fun j => (List.range 64).map (64 * · + j)).foldl (fun t n => tset t n poisoned) acc.tile }
        let all := List.range 64
        let (acc, evs) :=
          if acc.bad then (poisonT acc all [], [])
          else checkTile acc Accum.view acc.side (max 16 tol) fixT poisonT all all
        let s := s.tileEventsBy a.src (s.nameAcc a) (maskOf a.lanes) a.pc a.va 512 evs
        let (revs, gwct, s) := (tileLines acc.pages).zipIdx.foldl (fun (revs, gwct, s) (l, n) =>
          let ws := (List.range 32).map fun w => tget acc.tile (32 * n + w) (clean 0)
          let s := s.setLine l { s.line l with acc := none }
          let (rv, gw, s) := s.writeAt (128 * l) (ws.flatMap fun x => leBytes 4 x.val.toNat) (ws.map (·.poison)) none false
          (revs ++ rv, max gwct gw, s)) (([] : List Revoke), s.dt, s)
        let s := { s with accums := terase s.accums (key / 128) }
        (s.reply id a revs gwct).ccTestAll none
/-- Has a tile merged what its close counts? Then it takes no more. -/
def Accum.full (a : Accum) : Bool := match a.close with | some (e, _, _) => e ≤ a.merged | none => false
/-- May it close: nothing is left in its buffer, and its lines may be written? -/
def State.closable (s : State) (acc : Accum) : Bool :=
  acc.full && acc.waiting.isEmpty && match acc.close.bind fun c => tget? s.accs c.2.2 with
    | some a => s.tileFree acc.pages a.src
    | none => false
/-- The close of a tile whose contributions have all merged. -/
def State.tryClose (s : State) (key : Nat) : State :=
  match tget? s.accums (key / 128) with
  | some acc => if s.closable acc then s.performClose key else s
  | none => s

/-- 15 R275: have all lower indices merged? -/
def Accum.inOrder (a : Accum) (i : Nat) : Bool := (List.range i).all (· ∈ a.indices)
/-- 15 R277: is a contribution a protocol error of an open tile? One that is in its buffer when E have merged is beyond them. -/
def Accum.protocolError (a : Accum) (index : Option Nat) : Bool :=
  a.full || (match a.ordered with | some o => o != index.isSome | none => false) ||
  (match index with
   | some i => i ∈ a.indices || (match a.close with | some (e, _, _) => e ≤ i | none => false)
   | none => false)

/-- The contribution that an access carries. -/
def Access.contrib? (a : Access) : Option Contrib := match a.kind with | .commit c => some c | _ => none

/-- Is the tile of a commit or close open, or may its lines be read as it opens? -/
def State.opens (s : State) (a : Access) : Bool := (tget? s.accums (a.key / 128)).isSome || (s.tileTaken a.pages a.src && !(tileLines a.pages).any s.limbSplit)
/-- Can a contribution be taken at its slice: on arrival, or from the buffer? -/
def State.mergeDue (s : State) (id : Nat) (a : Access) : Bool :=
  match a.contrib? with
  | none => false
  | some c =>
    let acc := tget s.accums (a.key / 128) {}
    let ready := acc.protocolError c.index || (match c.index with | some i => acc.inOrder i | none => true)
    if id ∈ acc.waiting then ready else s.isFirst id a && s.canOpen a.key && !acc.full && s.opens a && (ready || s.bufferedAt a.key < 16)

/-- COMMIT_MERGE (15 R275, R277): a contribution merges, or waits in the slice's buffer; merged, it is acknowledged. -/
def execCommitMerge (id : Nat) (s : State) : Host.Outcome State Fault Refusal :=
  .next (match tget? s.accs id with
  | none => s
  | some a =>
    match a.contrib? with
    | none => s
    | some c =>
      if !s.mergeDue id a then s else
      let s := s.openTile a
      let acc := tget s.accums (a.key / 128) {}
      let bad := acc.protocolError c.index
      let put (s : State) (x : Accum) : State := { s with accums := tset s.accums (a.key / 128) x }
      let count (x : Accum) : Accum :=
        { x with merged := x.merged + 1, ordered := some (x.ordered.getD c.index.isSome), waiting := sdel x.waiting id,
                 indices := match c.index with | some i => sadd x.indices i | none => x.indices }
      if bad then
        let s := put (s.protocol a) { count acc with bad := true }
        (s.reply id a [] (max s.dt (s.line (a.key / 128)).maxLE)).tryClose a.key
      else if (match c.index with | some i => acc.inOrder i | none => true) then
        let s := put s (count (acc.merge c.st))
        (s.reply id a [] (max s.dt (s.line (a.key / 128)).maxLE)).tryClose a.key
      else
        let s := put s { acc with ordered := some true, waiting := sadd acc.waiting id }
        s.modAcc id fun a => { a with stage := .performed, revs := [] })

/-- Can a close be taken at its slice, or one that waits there be performed? A second close of a tile waits, and holds what comes to the
line behind it, until the first has closed it (log 118). -/
def State.closeDue (s : State) (id : Nat) (a : Access) : Bool :=
  let acc := tget s.accums (a.key / 128) {}
  (match a.kind with | .close _ _ => true | _ => false) &&
    ((s.isFirst id a && s.canOpen a.key && acc.close.isNone && s.opens a) || (acc.close.any (·.2.2 == id) && s.closable acc))

/-- CLOSE_ARRIVAL (15 R276, R277): a close opens its tile if need be and waits for its contributions, or closes. -/
def execCloseArrival (id : Nat) (s : State) : Host.Outcome State Fault Refusal :=
  .next (match tget? s.accs id with
  | none => s
  | some a =>
    match a.kind with
    | .close e tol =>
      if !s.closeDue id a then s else
      if (tget s.accums (a.key / 128) {}).close.isSome then s.performClose a.key else
      let s := s.openTile a
      let acc := tget s.accums (a.key / 128) {}
      let bad := e == 0 || e < acc.merged || acc.indices.any (e ≤ ·)
      let s := if bad then s.protocol a else s
      let s := { s with accums := tset s.accums (a.key / 128) { acc with close := some (e, tol, id), bad := acc.bad || bad } }
      (s.modAcc id fun a => { a with stage := .performed, revs := [] }).tryClose a.key
    | _ => s)

end Sys2Proof.Machine
end

