-- ==== Sys2Proof/Machine/Integer.lean ====
section
/-! DEFINITION. Integer, bit and logic instructions, moves, selects and predicate logic of classes U and L (09 R152-R160,
R167, R169-R171). -/

namespace Sys2Proof.Machine

/-- 09 R152: U, `.uint32`. -/
def isU (f : FR) : Bool := (immOf f.ext).testBit 4
/-- 09 R152: SAT. -/
def isSat (f : FR) : Bool := (immOf f.ext).testBit 13

/-- 09 R155: an exact result, wrapped or clamped to the type's range. -/
def intResult (u sat : Bool) (x : Int) : Word :=
  if sat then w32 (clamp x (irange u).1 (irange u).2) else w32 x

/-- The first, second and third operand of a list. -/
def op1 (l : List Word) : Word := l.getD 0 0
def op2 (l : List Word) : Word := l.getD 1 0
def op3 (l : List Word) : Word := l.getD 2 0

/-- An instruction of one integer source. -/
def State.int1 (s : State) (k : UL) (f : FR) (op : Word → Word) : State :=
  s.alu k f [(f.a.toNat, kInt)] fun _ l => .word (op (op1 l))
/-- An instruction of two integer sources. -/
def State.int2 (s : State) (k : UL) (f : FR) (op : Word → Word → Word) : State :=
  s.alu k f [(f.a.toNat, kInt), (f.b.toNat, kInt)] fun _ l => .word (op (op1 l) (op2 l))
/-- An instruction of three integer sources. -/
def State.int3 (s : State) (k : UL) (f : FR) (op : Word → Word → Word → Word) : State :=
  s.alu k f [(f.a.toNat, kInt), (f.b.toNat, kInt), (thirdOf f.ext, kInt)] fun _ l => .word (op (op1 l) (op2 l) (op3 l))

/-- 09 R155. -/
def iaddOf (u sat : Bool) (a b : Word) : Word := intResult u sat (ival u a + ival u b)
def isubOf (u sat : Bool) (a b : Word) : Word := intResult u sat (ival u a - ival u b)
def imulOf (u sat : Bool) (a b : Word) : Word := intResult u sat (ival u a * ival u b)
def imulhiOf (u : Bool) (a b : Word) : Word := w32 ((ival u a * ival u b) / 2 ^ 32)
def imadOf (u sat : Bool) (a b c : Word) : Word := intResult u sat (ival u a * ival u b + ival u c)
def iminOf (u : Bool) (a b : Word) : Word := if ival u b < ival u a then b else a
def imaxOf (u : Bool) (a b : Word) : Word := if ival u a < ival u b then b else a
def iabsOf (sat : Bool) (a : Word) : Word := intResult false sat a.toInt.natAbs
def inegOf (sat : Bool) (a : Word) : Word := intResult false sat (-a.toInt)

/-- 09 R156: one step of restoring division: quotient word and remainder word. -/
def divStep (q m b : Word) : Word × Word :=
  let y := 2 * m.toNat + q.toNat / 2 ^ 31
  let q' := 2 * q.toNat
  if b.toNat ≤ y then (wn (q' + 1), wn (y - b.toNat)) else (wn q', wn y)

/-- 09 R157. -/
def shlOf (a b : Word) : Word := a <<< (b.toNat % 256)
def shrOf (a b : Word) : Word := a >>> (b.toNat % 256)
def sarOf (a b : Word) : Word := a.sshiftRight (b.toNat % 256)
def rotlOf (a b : Word) : Word := a.rotateLeft (b.toNat % 32)
def rotrOf (a b : Word) : Word := a.rotateRight (b.toNat % 32)
/-- 09 R157: the double-word shift, `.l` where `left`. -/
def dshOf (left : Bool) (a b c : Word) : Word :=
  let x := b.toNat * 2 ^ 32 + a.toNat
  let k := c.toNat % 64
  if left then wn (x * 2 ^ k / 2 ^ 32) else wn (x / 2 ^ k)

/-- 09 R158: pos and len of a field operand. -/
def bfPos (b : Word) : Nat := b.toNat % 32
def bfLen (b : Word) : Nat := min (field b.toNat 8 6) (32 - bfPos b)
def bfxOf (u : Bool) (a b : Word) : Word :=
  if bfLen b = 0 then 0
  else if u then wn (field a.toNat (bfPos b) (bfLen b))
  else w32 (sext (field a.toNat (bfPos b) (bfLen b)) (bfLen b))
def bfiOf (a b c : Word) : Word :=
  let m : Nat := (2 ^ bfLen b - 1) * 2 ^ bfPos b
  (a &&& ~~~(wn m)) ||| (wn (c.toNat * 2 ^ bfPos b) &&& wn m)

def execIadd (k : UL) (f : FR) (s : State) : Host.Outcome State Fault Refusal :=
  .next (s.int2 k f (iaddOf (isU f) (isSat f)))
def execIsub (k : UL) (f : FR) (s : State) : Host.Outcome State Fault Refusal :=
  .next (s.int2 k f (isubOf (isU f) (isSat f)))
def execImul (k : UL) (f : FR) (s : State) : Host.Outcome State Fault Refusal :=
  .next (s.int2 k f (imulOf (isU f) (isSat f)))
def execImulhi (k : UL) (f : FR) (s : State) : Host.Outcome State Fault Refusal :=
  .next (s.int2 k f (imulhiOf (isU f)))
def execImad (k : UL) (f : FR) (s : State) : Host.Outcome State Fault Refusal :=
  .next (s.int3 k f (imadOf (isU f) (isSat f)))
/-- 09 R156: source A and the destination are pairs. -/
def execIdivs (k : UL) (f : FR) (s : State) : Host.Outcome State Fault Refusal :=
  .next (s.alu k f ((pairCodes f.a.toNat).map (·, kInt) ++ [(f.b.toNat, kInt)]) fun _ l =>
    let r := divStep (op1 l) (op2 l) (op3 l)
    { val := r.1, hi := some r.2 })
def execImin (k : UL) (f : FR) (s : State) : Host.Outcome State Fault Refusal := .next (s.int2 k f (iminOf (isU f)))
def execImax (k : UL) (f : FR) (s : State) : Host.Outcome State Fault Refusal := .next (s.int2 k f (imaxOf (isU f)))
def execIabs (k : UL) (f : FR) (s : State) : Host.Outcome State Fault Refusal := .next (s.int1 k f (iabsOf (isSat f)))
def execIneg (k : UL) (f : FR) (s : State) : Host.Outcome State Fault Refusal := .next (s.int1 k f (inegOf (isSat f)))
def execShl (k : UL) (f : FR) (s : State) : Host.Outcome State Fault Refusal := .next (s.int2 k f shlOf)
def execShr (k : UL) (f : FR) (s : State) : Host.Outcome State Fault Refusal := .next (s.int2 k f shrOf)
def execSar (k : UL) (f : FR) (s : State) : Host.Outcome State Fault Refusal := .next (s.int2 k f sarOf)
def execRotl (k : UL) (f : FR) (s : State) : Host.Outcome State Fault Refusal := .next (s.int2 k f rotlOf)
def execRotr (k : UL) (f : FR) (s : State) : Host.Outcome State Fault Refusal := .next (s.int2 k f rotrOf)
def execDsh (k : UL) (f : FR) (s : State) : Host.Outcome State Fault Refusal :=
  .next (s.int3 k f (dshOf ((immOf f.ext).testBit 0)))
def execPopc (k : UL) (f : FR) (s : State) : Host.Outcome State Fault Refusal :=
  .next (s.int1 k f fun a => wn (popCount a))
def execClz (k : UL) (f : FR) (s : State) : Host.Outcome State Fault Refusal :=
  .next (s.int1 k f fun a => wn (leadZeros a))
def execCtz (k : UL) (f : FR) (s : State) : Host.Outcome State Fault Refusal :=
  .next (s.int1 k f fun a => wn (trailZeros a))
def execBrev (k : UL) (f : FR) (s : State) : Host.Outcome State Fault Refusal := .next (s.int1 k f bitRev)
def execBfx (k : UL) (f : FR) (s : State) : Host.Outcome State Fault Refusal := .next (s.int2 k f (bfxOf (isU f)))
def execBfi (k : UL) (f : FR) (s : State) : Host.Outcome State Fault Refusal := .next (s.int3 k f bfiOf)
def execClmul (k : UL) (f : FR) (s : State) : Host.Outcome State Fault Refusal :=
  .next (s.int2 k f fun a b => wn (clProduct a b))
def execClmulh (k : UL) (f : FR) (s : State) : Host.Outcome State Fault Refusal :=
  .next (s.int2 k f fun a b => wn (clProduct a b / 2 ^ 32))
def execAnd (k : UL) (f : FR) (s : State) : Host.Outcome State Fault Refusal := .next (s.int2 k f (· &&& ·))
def execOr (k : UL) (f : FR) (s : State) : Host.Outcome State Fault Refusal := .next (s.int2 k f (· ||| ·))
def execXor (k : UL) (f : FR) (s : State) : Host.Outcome State Fault Refusal := .next (s.int2 k f (· ^^^ ·))
def execNot (k : UL) (f : FR) (s : State) : Host.Outcome State Fault Refusal := .next (s.int1 k f (~~~ ·))
/-- 09 R160: the table is in modifier bits 7:0. -/
def execLgc3 (k : UL) (f : FR) (s : State) : Host.Outcome State Fault Refusal :=
  .next (s.int3 k f fun a b c => logic3 a b c (immOf f.ext % 256))
/-- 09 R160: k in modifier bits 15:0, H in bit 16. -/
def execMov (k : UL) (f : FR) (s : State) : Host.Outcome State Fault Refusal :=
  let im := immOf f.ext
  .next (s.int1 k f fun a => a + wn (if im.testBit 16 then im % 2 ^ 16 * 2 ^ 16 else im))
/-- 09 R169: both sources are read; a poisoned predicate poisons the result (R150). -/
def execSel (k : UL) (f : FR) (s : State) : Host.Outcome State Fault Refusal :=
  let im := immOf f.ext
  .next (s.alu k f [(f.a.toNat, kInt), (f.b.toNat, kInt)] fun th l =>
    let p := th.predN (im % 8) (im.testBit 3)
    { val := if p.val then op1 l else op2 l, poison := p.poison })
/-- 09 R167: the condition code is in SEL. -/
def execIcmp (k : UL) (f : FR) (s : State) : Host.Outcome State Fault Refusal :=
  .next (s.aluPred k f [(f.a.toNat, kInt), (f.b.toNat, kInt)] fun _ l =>
    .bool (intCond (immOf f.ext % 8) (ival (isU f) (op1 l)) (ival (isU f) (op2 l))))
/-- 09 R170. -/
def execPlop (k : UL) (f : FR) (s : State) : Host.Outcome State Fault Refusal :=
  let im := immOf f.ext
  .next (s.aluPred k f [] fun th _ =>
    let a := th.pred (field im 14 3)
    let b := th.pred (field im 11 3)
    let c := th.pred (field im 8 3)
    { Res.bool (im.testBit (a.val.toNat + 2 * b.val.toNat + 4 * c.val.toNat)) with
      poison := a.poison || b.poison || c.poison })
/-- 09 R171. -/
def execPpack (k : UL) (f : FR) (s : State) : Host.Outcome State Fault Refusal :=
  .next (s.alu k f [] fun th _ =>
    let ps := (List.range 8).map th.pred
    { val := wn (maskOf ((List.range 8).filter fun n => (th.pred n).val)), poison := ps.any (·.poison) })
/-- 09 R171: in class U the predicates of every participating thread. -/
def execPunpk (k : UL) (f : FR) (s : State) : Host.Outcome State Fault Refusal :=
  let (s, ps) := s.parts f.ext
  .next (match s.cur with
  | none => s
  | some i =>
    let (rs, s) := s.results i k ps [(f.a.toNat, kInt)] fun _ l => .word (op1 l)
    let put (s : State) (t : Nat) (r : Res) : State :=
      s.modThread i.tk i.g t fun th =>
        (List.range 7).foldl (fun th n => th.setPred n { val := r.val.getLsbD n, poison := r.poison }) th
    let s := match k, rs with
      | .U, r :: _ => overAll ps (fun s t => put s t r.2) s
      | _, _ => overAll rs (fun s r => put s r.1 r.2) s
    s.shiftEmpty)

end Sys2Proof.Machine
end

