-- ==== Sys2Proof/Machine/Float.lean ====
section
/-! DEFINITION. Floating instructions and conversions of classes U and L (09 R154, R161-R166, R168, R172-R175). -/

namespace Sys2Proof.Machine

/-- 09 R154: the format of a floating instruction. -/
def fmtOf (f : FR) : Fmt := .ofCode (mDst (immOf f.ext))
/-- A code of a format out of a register: the upper bits are ignored (09 R147). -/
def low (g : Fmt) (x : Word) : Nat := x.toNat % 2 ^ g.width

/-- 03 R62: a value rounded into a format: result, flags and the advanced state. -/
def roundRes (im : Nat) (g : Fmt) (th : Thread) (x : Num) (flags : Nat) : Res :=
  let r := rndS x g (mRound im) (mSat im) th.srs
  { val := wn r.1.code, hi := if g == .f64 then some (wn (r.1.code / 2 ^ 32)) else none, flags := flags ||| r.1.flags,
    srs := some r.2 }

/-- A floating instruction of one source: value and flags before rounding. -/
def State.float1 (s : State) (k : UL) (f : FR) (op : Num → Num × Nat) : State :=
  let g := fmtOf f
  s.alu k f [(f.a.toNat, kFloat g)] fun th l =>
    let r := op (val g (low g (op1 l)))
    roundRes (immOf f.ext) g th r.1 r.2
/-- A floating instruction of two sources. -/
def State.float2 (s : State) (k : UL) (f : FR) (op : Num → Num → Num × Nat) : State :=
  let g := fmtOf f
  s.alu k f [(f.a.toNat, kFloat g), (f.b.toNat, kFloat g)] fun th l =>
    let r := op (val g (low g (op1 l))) (val g (low g (op2 l)))
    roundRes (immOf f.ext) g th r.1 r.2

/-- 09 R161: NV where an invalid operation makes a NaN out of operands that are none. -/
def nvOf (x : Num) (ops : List Num) : Nat := if x.isNan && !ops.any Num.isNan then NV else 0
/-- 09 R161: the sum, the product and the fused sum, with NV. -/
def addOf (rdn : Bool) (a b : Num) : Num × Nat := let x := Num.add rdn a b; (x, nvOf x [a, b])
def mulOf (a b : Num) : Num × Nat := let x := Num.mul a b; (x, nvOf x [a, b])
def fmaOf (rdn : Bool) (a b c : Num) : Num × Nat :=
  let p := Num.mul a b
  let x := Num.add rdn p c
  (x, nvOf p [a, b] ||| nvOf x [p, c])
/-- 09 R161: is the rounding mode RDN? -/
def isRdn (f : FR) : Bool := mRound (immOf f.ext) == 3

def execFadd (k : UL) (f : FR) (s : State) : Host.Outcome State Fault Refusal := .next (s.float2 k f (addOf (isRdn f)))
def execFsub (k : UL) (f : FR) (s : State) : Host.Outcome State Fault Refusal :=
  .next (s.float2 k f fun a b => addOf (isRdn f) a b.neg)
def execFmul (k : UL) (f : FR) (s : State) : Host.Outcome State Fault Refusal := .next (s.float2 k f mulOf)
def execFma (k : UL) (f : FR) (s : State) : Host.Outcome State Fault Refusal :=
  let g := fmtOf f
  .next (s.alu k f [(f.a.toNat, kFloat g), (f.b.toNat, kFloat g), (thirdOf f.ext, kFloat g)] fun th l =>
    let r := fmaOf (isRdn f) (val g (low g (op1 l))) (val g (low g (op2 l))) (val g (low g (op3 l)))
    roundRes (immOf f.ext) g th r.1 r.2)

/-- 09 R162: −0 is ordered below +0; a NaN gives the other operand, two NaNs the default NaN. -/
def fminmax (g : Fmt) (larger : Bool) (a b : Nat) : Nat :=
  let x := val g a
  let y := val g b
  if x.isNan && y.isNan then ((g.float?.bind (·.nan)).getD 0)
  else if x.isNan then b
  else if y.isNan then a
  else
    let c := x.cmp y
    let less := c < 0 || (c == 0 && x.sign && !y.sign)
    let more := 0 < c || (c == 0 && !x.sign && y.sign)
    if larger then (if less then b else a) else if more then b else a
/-- An instruction on two codes of a format. -/
def State.codes2 (s : State) (k : UL) (f : FR) (op : Fmt → Nat → Nat → Nat) : State :=
  let g := fmtOf f
  s.alu k f [(f.a.toNat, kFloat g), (f.b.toNat, kFloat g)] fun _ l => .word (wn (op g (low g (op1 l)) (low g (op2 l))))
/-- An instruction on one code of a format. -/
def State.codes1 (s : State) (k : UL) (f : FR) (op : Fmt → Nat → Nat) : State :=
  let g := fmtOf f
  s.alu k f [(f.a.toNat, kFloat g)] fun _ l => .word (wn (op g (low g (op1 l))))

def execFmin (k : UL) (f : FR) (s : State) : Host.Outcome State Fault Refusal :=
  .next (s.codes2 k f fun g => fminmax g false)
def execFmax (k : UL) (f : FR) (s : State) : Host.Outcome State Fault Refusal :=
  .next (s.codes2 k f fun g => fminmax g true)
/-- 09 R163: the sign bit of a format. -/
def signBit (g : Fmt) : Nat := 2 ^ (g.width - 1)
def execFabs (k : UL) (f : FR) (s : State) : Host.Outcome State Fault Refusal :=
  .next (s.codes1 k f fun g a => a % signBit g)
def execFneg (k : UL) (f : FR) (s : State) : Host.Outcome State Fault Refusal :=
  .next (s.codes1 k f fun g a => a ^^^ signBit g)
def execFcopysign (k : UL) (f : FR) (s : State) : Host.Outcome State Fault Refusal :=
  .next (s.codes2 k f fun g a b => a % signBit g + b / signBit g * signBit g)
def execFrcp (k : UL) (f : FR) (s : State) : Host.Outcome State Fault Refusal := .next (s.float1 k f recip)
def execFrsq (k : UL) (f : FR) (s : State) : Host.Outcome State Fault Refusal := .next (s.float1 k f rsqrtOf)
def execFsqrt (k : UL) (f : FR) (s : State) : Host.Outcome State Fault Refusal := .next (s.float1 k f sqrtOf)
/-- 09 R164: the result of an input that is no finite number is fixed, so `.sat` does not clamp it (log 15). -/
def exp2Res (im : Nat) (g : Fmt) (th : Thread) (x : Num) : Res :=
  match x with
  | .fin .. => roundRes im g th (exp2Of x).1 (exp2Of x).2
  | _ => roundRes (im &&& 0x1DFFF) g th (exp2Of x).1 0
def execFexp2 (k : UL) (f : FR) (s : State) : Host.Outcome State Fault Refusal :=
  let g := fmtOf f
  .next (s.alu k f [(f.a.toNat, kFloat g)] fun th l => exp2Res (immOf f.ext) g th (val g (low g (op1 l))))
def execFlog2 (k : UL) (f : FR) (s : State) : Host.Outcome State Fault Refusal := .next (s.float1 k f log2Of)

/-- 09 R165: the integer of format g that `a` rounds to, with NX. -/
def froundOf (g : Fmt) (mode : Nat) (srs : Word) (c : Nat) : Nat × Nat :=
  match val g c, g.float? with
  | .nan, some p => (p.nan.getD 0, 0)
  | .fin s m e _, some p =>
    if m == 0 || 0 ≤ e then (c, 0) else
    let (n, r, sh) := cutAt m e 0
    let n' := if roundsUp mode s n r sh false srs then n + 1 else n
    ((rnd (.fin s n' 0 false) g 0 false srs).code, if r == 0 then 0 else NX) |> fun x =>
      if n' == 0 then (signed p s 0, x.2) else x
  | _, _ => (c, 0)
def execFround (k : UL) (f : FR) (s : State) : Host.Outcome State Fault Refusal :=
  let g := fmtOf f
  let m := mRound (immOf f.ext)
  .next (s.alu k f [(f.a.toNat, kFloat g)] fun th l =>
    let srs := advance m th.srs
    let r := froundOf g m srs (low g (op1 l))
    { val := wn r.1, flags := r.2, srs := some srs })
def execFclass (k : UL) (f : FR) (s : State) : Host.Outcome State Fault Refusal :=
  .next (s.codes1 k f classMask)
/-- 09 R168: the condition code is in modifier bits 2:0. -/
def execFcmp (k : UL) (f : FR) (s : State) : Host.Outcome State Fault Refusal :=
  let g := fmtOf f
  .next (s.aluPred k f [(f.a.toNat, kFloat g), (f.b.toNat, kFloat g)] fun _ l =>
    .bool (floatCond (immOf f.ext % 8) (val g (low g (op1 l))) (val g (low g (op2 l)))))

/-! Conversions (09 R172-R175). -/

/-- How an inline constant of a source format reads (05 R92); an E8M0 source is an integer code (log 14). -/
def kFmt (g : Fmt) : Nat → Word := if g.float?.isSome then kFloat g else kInt

/-- The sources of a conversion: a pair for FP64 (09 R148). -/
def cvtCodes (g : Fmt) (c : Nat) : List (Nat × (Nat → Word)) :=
  if g == .f64 then
    (pairCodes c).zipIdx.map fun (x, n) => (x, fun c => wn (inlineFloat c .f64 / 2 ^ (32 * n)))
  else [(c, kFmt g)]

/-- 09 R172: a conversion of a format to itself returns the operand, but for a NaN. -/
def cvtOf (im : Nat) (th : Thread) (l : List Word) : Res :=
  let sg := Fmt.ofCode (mSrc im)
  let dg := Fmt.ofCode (mDst im)
  let c := if sg == .f64 then (op2 l).toNat * 2 ^ 32 + (op1 l).toNat else low sg (op1 l)
  let x := val sg c
  if sg == dg && !x.isNan then
    { val := wn c, hi := if dg == .f64 then some (wn (c / 2 ^ 32)) else none, srs := some (advance (mRound im) th.srs) }
  else roundRes im dg th x 0
def execCvt (k : UL) (f : FR) (s : State) : Host.Outcome State Fault Refusal :=
  .next (s.alu k f (cvtCodes (.ofCode (mSrc (immOf f.ext))) f.a.toNat) (cvtOf (immOf f.ext)))

/-- Elements of width `w` from position `p` of a word replaced. -/
def setBits (x : Word) (p w v : Nat) : Word :=
  let m := (2 ^ w - 1) * 2 ^ p
  (x &&& ~~~(wn m)) ||| wn (v % 2 ^ w * 2 ^ p)

/-- 09 R173: two values (or four, for K4X) rounded in increasing element order into the old destination. -/
def cvtpkOf (im : Nat) (th : Thread) (l : List Word) : Res :=
  let sg := Fmt.ofCode (mSrc im)
  let dg := Fmt.ofCode (mDst im)
  let k := im % 4
  let old := op1 l
  let v (n : Nat) : Num := val sg (low sg (l.getD (n + 1) 0))
  if dg == .k4x then
    let r := k4xPack [v 0, v 1, v 2, v 3] (mRound im) th.srs
    { val := setBits old (16 * k) 16 r.1.code, flags := r.1.flags, srs := some r.2 }
  else
    let r0 := rndS (v 0) dg (mRound im) (mSat im) th.srs
    let r1 := rndS (v 1) dg (mRound im) (mSat im) r0.2
    let w := dg.width
    { val := setBits (setBits old (2 * k * w) w r0.1.code) ((2 * k + 1) * w) w r1.1.code,
      flags := r0.1.flags ||| r1.1.flags, srs := some r1.2 }
def execCvtpk (k : UL) (f : FR) (s : State) : Host.Outcome State Fault Refusal :=
  let im := immOf f.ext
  let sg := Fmt.ofCode (mSrc im)
  let a := f.a.toNat
  let vals := if Fmt.ofCode (mDst im) == .k4x then [a, a + 1, a + 2, a + 3] else [a, f.b.toNat]
  .next (s.alu k f ((f.d.toNat, kInt) :: vals.map (·, kFmt sg)) (cvtpkOf im))

/-- 09 R174: element e of a packed word: its value, or none in an ill-formed quad. -/
def element (g : Fmt) (x : Word) (e : Nat) : Option Num :=
  if g == .k4x then (k4xQuad (field x.toNat (16 * (e / 4)) 16)).map fun q => q.getD (e % 4) Num.zero
  else some (val g (field x.toNat (g.width * e) g.width))
/-- 09 R174; between equal formats a number keeps its code, under .sat too (log 109). -/
def cvtspOf (im : Nat) (th : Thread) (l : List Word) : Res :=
  match element (.ofCode (mSrc im)) (op1 l) (im % 8) with
  | some x =>
    if mSrc im == mDst im && !x.isNan then
      { val := wn (field (op1 l).toNat ((Fmt.ofCode (mSrc im)).width * (im % 8)) (Fmt.ofCode (mSrc im)).width),
        srs := some (advance (mRound im) th.srs) }
    else roundRes im (.ofCode (mDst im)) th x 0
  | none => { poison := true, srs := some (advance (mRound im) th.srs) }
/-- How an inline constant reads as a packed source: a K4X one is a free value (log 3). -/
def kPacked (g : Fmt) (c : Nat) : Word := if g == .k4x then Config.k4xInline c else kFmt g c
def execCvtsp (k : UL) (f : FR) (s : State) : Host.Outcome State Fault Refusal :=
  .next (s.alu k f [(f.a.toNat, kPacked (.ofCode (mSrc (immOf f.ext))))] (cvtspOf (immOf f.ext)))

end Sys2Proof.Machine
end

