-- ==== Sys2Proof/Machine/Engine.lean ====
section
/-! DEFINITION. Class E: its mould and commands (19 R322, R323, R327, R328), engine queue entries (R314, R320), and the copy
engines: descriptors, slices, lines, block records and completion (R308-R314, R324, R331; 03 R59, R60; 15 R256). -/

namespace Sys2Proof.Machine

/-! The mould (19 R322, R323; 25 R381). -/

/-- An E instruction acts once per candidate that has a participating thread. -/
def State.engine (s : State) (f : FE) (op : State → Issue → List Nat → State) : State :=
  let (s, ps) := s.parts f.ext
  match s.cur with
  | none => s
  | some i => if ps.isEmpty then s.shiftEmpty else (op s i ps).shiftEmpty

/-- A command on its way: it leaves its core after the quarantine. `slot` where the instruction assigns a wait slot. -/
def State.command (s : State) (i : Issue) (f : FE) (ps : List Nat) (slot : Bool) (va : Nat) (c : ECmd) : State :=
  match s.team i.tk with
  | none => s
  | some m =>
    let (op, s) := if slot then let (op, s) := s.newOp i f.ext ps [] 1; (some op, s) else (none, s)
    let (id, s) := s.fresh
    { s with accs := tset s.accs id { src := coreOf i.tk, kind := .command c, tk := i.tk, g := i.g, lanes := ps, clause := i.id,
                                      ctx := m.ctx, tenant := m.tenant, va := va, op := op, pc := i.pc, dt := s.dt,
                                      order := 2, scope := 5 } }

/-- 19 R323: the engine-command trap. -/
def State.engineTrap (s : State) (i : Issue) (ps : List Nat) (sub : Nat) : State := s.subTrap i ps 44 sub

/-- The address of `card.enq` and `graph.launch`: A + 2^32 × B (19 R327). -/
def State.enqueueWord (s : State) (f : FE) (graph : Bool) : State :=
  s.engine f fun s i ps =>
    let t := ps.headD 0
    let (a, s) := s.operand i kInt t f.a.toNat
    let (b, s) := s.operand i kInt t f.b.toNat
    let addr := a.val.toNat + 2 ^ 32 * b.val.toNat
    let qn := immOf f.ext % 256
    if a.poison || b.poison then s.killAll i.tk i.g ps 25 i.pc
    else if addr % 64 ≠ 0 || 2 ^ 56 ≤ addr then s.engineTrap i ps 2
    else if 16 < qn then s.engineTrap i ps 5
    else s.command i f ps true addr (.enq qn addr graph)
def execCardEnq (f : FE) (s : State) : Host.Outcome State Fault Refusal := .next (s.enqueueWord f false)
def execGraphLaunch (f : FE) (s : State) : Host.Outcome State Fault Refusal := .next (s.enqueueWord f true)

/-- 19 R325, R332: `coll.start` and `coll.rearm` reach the engine as commands. -/
def State.armWord (s : State) (f : FE) (rearm : Bool) : State :=
  s.engine f fun s i ps =>
    let t := ps.headD 0
    let a := s.pair i t f.a.toNat
    let b : PDword := if rearm then s.pair i t f.b.toNat else { val := 0, poison := false }
    if a.poison then s.killAll i.tk i.g ps 25 i.pc
    else if b.poison then s.killAll i.tk i.g ps 27 i.pc
    else if a.val.toNat % 64 ≠ 0 || 2 ^ 56 ≤ a.val.toNat then s.engineTrap i ps 2
    else s.command i f ps true a.val.toNat (if rearm then .collRearm a.val.toNat b.val.toNat else .collStart a.val.toNat)
def execCollStart (f : FE) (s : State) : Host.Outcome State Fault Refusal := .next (s.armWord f false)
def execCollRearm (f : FE) (s : State) : Host.Outcome State Fault Refusal := .next (s.armWord f true)

/-- 19 R326: `coll.ready`. -/
def execCollReady (f : FE) (s : State) : Host.Outcome State Fault Refusal :=
  .next (s.engine f fun s i ps =>
    let t := ps.headD 0
    let (a, s) := s.operand i kInt t f.a.toNat
    let b := s.pair i t f.b.toNat
    if b.poison then s.killAll i.tk i.g ps 25 i.pc
    else if a.poison then s.killAll i.tk i.g ps 27 i.pc
    else if b.val.toNat % 64 ≠ 0 || 2 ^ 56 ≤ b.val.toNat then s.engineTrap i ps 2
    else s.command i f ps true b.val.toNat (.collReady a.val.toNat b.val.toNat))

/-- 19 R323: does a started copy name a barrier, or does a thread wait on it? -/
def State.tbNamed (s : State) (tk k : Nat) : Bool :=
  (s.copies.any fun c => c.2.team == some tk && c.2.started && c.2.slices.any fun x => x.2.comp == 1 && x.2.tb == k) ||
  (match s.team tk with
   | some m => m.groups.any fun g => g.2.th.any fun e => e.2.conds.any fun c => match c with | .tb j _ => j == k | _ => false
   | none => false)

/-- 19 R328: `tb.init`. -/
def execTbInit (f : FE) (s : State) : Host.Outcome State Fault Refusal :=
  .next (s.engine f fun s i ps =>
    match s.team i.tk with
    | none => s
    | some m =>
      let k := f.tb.toNat
      let (a, s) := s.operand i kInt (ps.headD 0) f.a.toNat
      let x := a.val.toNat
      let b := tget m.tbs k {}
      if m.tbn ≤ k then s.trapAll i.tk i.g ps fun _ => i.trap 37
      else if a.poison then s.killAll i.tk i.g ps 27 i.pc
      else if 2 ^ 24 ≤ x then s.trapAll i.tk i.g ps fun _ =>
        { i.trap 38 with xdet := clean (wn (k + 512)), addr := x, detail := b.pend + 2 ^ 24 * k + 2 ^ 31 }
      else if s.tbNamed i.tk k then s.engineTrap i ps 3
      else
        let (_, s) := s.newOp i f.ext ps [] 0
        s.modTeam i.tk fun m => { m with tbs := tset m.tbs k { pend := x } })

/-- 19 R328: `cnt.init`, an engine write of 8 bytes that leaves after the quarantine and the threads' acknowledgements. -/
def execCntInit (f : FE) (s : State) : Host.Outcome State Fault Refusal :=
  .next (s.engine f fun s i ps =>
    let t := ps.headD 0
    let a := s.pair i t f.a.toNat
    let b := s.pair i t f.b.toNat
    if a.poison then s.killAll i.tk i.g ps 25 i.pc
    else if b.poison then s.killAll i.tk i.g ps 27 i.pc
    else if a.val.toNat % 8 ≠ 0 || 2 ^ 56 ≤ a.val.toNat then s.engineTrap i ps 2
    else
      let (op, s) := s.newOp i f.ext ps [] 1
      match s.team i.tk with
      | none => s
      | some m =>
        let x : Access := { src := coreOf i.tk, kind := .engine, tk := i.tk, g := i.g, lanes := ps, clause := i.id, ctx := m.ctx,
                            tenant := m.tenant, width := 8, data := leBytes 8 b.val.toNat, op := some op, pc := i.pc, dt := s.dt }
        s.issueAccs i.tk i.g [(x, a.val.toNat)])

/-- 19 R328: `wgt.set`. -/
def execWgtSet (f : FE) (s : State) : Host.Outcome State Fault Refusal :=
  .next (s.engine f fun s i ps =>
    let t := ps.headD 0
    let (a, s) := s.operand i kInt t f.a.toNat
    let (b, s) := s.operand i kInt t f.b.toNat
    if a.poison || b.poison then s.killAll i.tk i.g ps 27 i.pc
    else if 7 < a.val.toNat || 255 < b.val.toNat then s.engineTrap i ps 4
    else s.command i f ps false 0 (.weight a.val.toNat b.val.toNat))

/-! Entries that engines push (19 R314, R320, R327). -/

/-- An entry of a team queue that an engine pushes: it waits in the engine for the quarantine (25 R385) and for room. -/
def State.engineEntry (s : State) (tk q : Nat) (w : Word) : State :=
  s.modTeam tk fun m => { m with qwait := tset m.qwait q (tget m.qwait q [] ++ [(s.dt, w)]) }
/-- Is there room in a team queue? -/
def State.queueRoom (s : State) (tk q : Nat) : Bool :=
  match s.team tk with
  | none => false
  | some m => (tget m.q q []).length +
      (s.accs.filter fun x => x.2.tk == tk && match x.2.kind with | .push p _ => p == q | _ => false).length < 16
/-- The oldest entry waiting for a queue of a team: an event for q3 is kept by its context (19 R320). -/
def State.nextEntry (s : State) (tk q : Nat) : Option (Nat × Word) :=
  (s.team tk).bind fun m =>
    if q == 3 then ((s.ctx m.ctx).events.find? fun e => e.1 == m.uid).map fun e => (e.2.2, e.2.1)
    else (tget m.qwait q []).head?
/-- ENGINE_QUEUE_PUSH: the oldest entry waiting for a queue enters it, once it is 64 ticks old. -/
def State.pushDue (s : State) (tk q : Nat) : Bool :=
  (match s.nextEntry tk q with | some (t, _) => t + Config.quarantine ≤ s.dt | none => false) && s.queueRoom tk q
def execEngineQueuePush (tk q : Nat) (s : State) : Host.Outcome State Fault Refusal :=
  .next (match s.nextEntry tk q, s.team tk with
  | some (t, w), some m =>
    if !s.pushDue tk q then s else
    let s := if q == 3 then s.modCtx m.ctx fun c => { c with events := c.events.erase (m.uid, w, t) }
             else s.modTeam tk fun m => { m with qwait := tset m.qwait q ((tget m.qwait q []).drop 1) }
    s.modTeam tk fun m => { m with q := tset m.q q (tget m.q q [] ++ [clean w])
                                   pushed := (m.pushed.filter fun x => s.dt < x.1 + Config.quarantine + 48) ++ [(s.dt, q, w)] }
  | _, _ => s)

/-! Engine accesses. -/

/-- An engine's read request. -/
def State.engineRead (s : State) (a : Access) : State :=
  let (id, s) := s.fresh
  { s with accs := tset s.accs id { a with kind := .load, stage := .core, dt := s.dt } }
/-- 23 R365: an engine's write held under a new PARKID. -/
def State.holdWrite (s : State) (a : Access) (cause : Nat) : State :=
  let (pid, s) := s.newPark a.ctx
  let (id, s) := s.fresh
  let s := { s with accs := tset s.accs id { a with stage := .parked pid, cause := cause, dt := s.dt } }
  s.engineFault a.src a.ctx a.who cause kPark a.va 0 pid
/-- The die whose tables an engine or the launcher translates by. -/
def engineDie (src : Nat) : Nat := if 512 ≤ src && src < 520 then src % 4 else 0
/-- 19 R303: an engine's write to a virtual address: on its way, held for a park cause, or ended by the cause and DETAIL that it
answers. -/
def State.engineSend (s : State) (a : Access) : Nat × Nat × State :=
  match s.xlateDie (engineDie a.src) a.ctx a.va .write with
  | .ok key _ => if a.kind == .count && a.va % 8 ≠ 0 then (15, 0, s) else (0, 0, s.engineWrite { a with key := key })
  | x => if isParkCause x.cause then (0, 0, s.holdWrite a x.cause) else (x.cause, x.detail, s)
/-- 19 R303: the add of 1 to a counter, an engine write; a counter that meets a poison cause is recorded. -/
def State.countUp (s : State) (src ctx tenant va : Nat) (w : Who) (owner : Owner) : State :=
  let a : Access := { src := src, kind := .count, ctx := ctx, tenant := tenant, va := va, width := 8, owner := owner, who := w }
  match s.engineSend a with
  | (0, _, s) => s
  | (c, d, s) => s.engineFault src ctx w c kPoison va d

/-! Descriptors and boxes (19 R310-R312, R331). -/

/-- A signed 32-bit stride. -/
def stride (l : List Byte) : Int := sext (leNat l) 32
/-- 19 R310: a descriptor from its 64 bytes. -/
def descOf (b : List Byte) : Desc :=
  let at_ (o n : Nat) : List Byte := (b.drop o).take n
  let n (o k : Nat) : Nat := leNat (at_ o k)
  let m := n 52 1
  { src := n 0 8, dst := n 8 8, nx := n 16 4, ny := n 20 2, nz := n 22 2, ssy := stride (at_ 24 4), ssz := stride (at_ 28 4),
    dsy := stride (at_ 32 4), dsz := stride (at_ 36 4), limx := n 40 4, limy := n 44 2, limz := n 46 2, fill := n 48 4,
    size := 2 ^ (m % 4), sspace := field m 2 2, dspace := field m 4 2, block := m.testBit 6, tclass := n 53 1 % 8, cnt := n 56 8,
    bad := n 16 4 == 0 || 2 ^ 24 < n 16 4 || n 20 2 == 0 || n 22 2 == 0 || m.testBit 7 || 8 ≤ n 53 1 || n 54 2 ≠ 0 || n 56 8 % 8 ≠ 0 }
/-- Rows of a box, its bytes per row, and where row `r` starts on each side. -/
def Desc.rows (d : Desc) : Nat := d.ny * d.nz
def Desc.rowBytes (d : Desc) : Nat := d.nx * d.size
def Desc.srcRow (d : Desc) (r : Nat) : Int := d.src + (r % d.ny : Nat) * d.ssy + (r / d.ny : Nat) * d.ssz
def Desc.dstRow (d : Desc) (r : Nat) : Int := d.dst + (r % d.ny : Nat) * d.dsy + (r / d.ny : Nat) * d.dsz
/-- 19 R311: the bytes of a row that are read. -/
def Desc.liveBytes (d : Desc) (r : Nat) : Nat :=
  if d.limy ≤ r % d.ny || d.limz ≤ r / d.ny then 0 else min d.nx d.limx * d.size
/-- Does a slice clip an element? -/
def Desc.clips (d : Desc) : Bool := d.limx < d.nx || d.limy < d.ny || d.limz < d.nz
/-- 19 R311: byte `o` of a row of fill. -/
def Desc.fillByte (d : Desc) (o : Nat) : Byte := BitVec.ofNat 8 (d.fill / 256 ^ (o % d.size))

/-- The runs of bytes [o, e) of row `r` of the slice of group `g`, each within one line of its source, or of fill. -/
def Desc.runs (d : Desc) (g r o e : Nat) (keep : Bool) : List Piece :=
  let live := d.liveBytes r
  let cuts := (List.range (e - o)).filterMap fun k =>
    let x := o + k
    if k == 0 || x == live || (x < live && (d.srcRow r + x) % 128 == 0) then some x else none
  (cuts.zip (cuts.drop 1 ++ [e])).map fun (a, b) =>
    { src := d.srcRow r + a, dst := d.dstRow r + a, len := b - a, g := g, row := r, off := a, size := d.size, keep := keep
      st := if live ≤ a then .got ((List.range (b - a)).map fun k => d.fillByte (a + k)) (List.replicate (b - a) false) none else .todo }
/-- The bytes of row `r` that line `l` of the destination takes, as a range of the row. -/
def Desc.inLine (d : Desc) (r : Nat) (l : Int) : Nat × Nat :=
  let a := max 0 (128 * l - d.dstRow r)
  let e := min (d.rowBytes : Int) (128 * l + 128 - d.dstRow r)
  (a.toNat, max a.toNat e.toNat)
/-- Does a slice write a line? -/
def Desc.writes (d : Desc) (l : Int) : Bool := (List.range d.rows).any fun r => let (a, e) := d.inLine r l; a < e
/-- The pieces of a line that a slice writes: its bytes, and the rest of the elements that the line holds in part. -/
def Desc.linePieces (d : Desc) (g : Nat) (l : Int) : List Piece :=
  (List.range d.rows).flatMap fun r =>
    let (a, e) := d.inLine r l
    if e ≤ a then [] else
    d.runs g r (a / d.size * d.size) a false ++ d.runs g r a e true ++ d.runs g r e (roundUp e d.size) false
/-- 19 R309: the slices of a copy that write lines of home slices in one space with a slice, itself among them. -/
def Copy.mates (c : Copy) (g : Nat) (d : Desc) : List (Nat × CSlice × Desc) :=
  c.slices.filterMap fun (h, x) => x.desc.bind fun (q : Desc) =>
    if h == g || (d.dspace < 2 && q.dspace == d.dspace) then some (h, x, q) else none
/-- 19 R309: does the lowest slice that writes a line make the copy's write of it? -/
def Copy.leads (c : Copy) (g : Nat) (d : Desc) (l : Int) : Bool := (c.mates g d).all fun m => g ≤ m.1 || !m.2.2.writes l
/-- 19 R309: everything that a copy writes into a line. -/
def Copy.lineJob (c : Copy) (g : Nat) (d : Desc) (l : Int) : Job := { pieces := (c.mates g d).flatMap fun m => m.2.2.linePieces m.1 l }
/-- Has a slice come past a line that it writes? -/
def CSlice.past (x : CSlice) (d : Desc) (l : Int) : Bool :=
  ((List.range x.row).any fun r => let (a, e) := d.inLine r l; a < e) || (let (a, e) := d.inLine x.row l; a < e && a < x.off)
/-- The lines of a slice's rows. -/
def Desc.lines (d : Desc) : List Int :=
  (List.range d.rows).flatMap fun r =>
    let lo := d.dstRow r / 128
    (List.range ((d.dstRow r + d.rowBytes + 127) / 128 - lo).toNat).map fun k => lo + (k : Nat)
/-- 19 R314: have the writes of a slice that other slices of its copy make for it been acknowledged? -/
def Copy.sharedDone (c : Copy) (g : Nat) (d : Desc) : Bool :=
  (c.mates g d).all fun (h, y, q) => g ≤ h ||
    (!(y.jobs.any fun j => j.2.pieces.any fun p => p.g == g) && d.lines.all fun l => !q.writes l || y.past q l)

/-- 19 R312: bytes of a block record's elements. -/
def blockBytes (c : TileRec) : Nat := c.len * c.g.width / 8
/-- Where the block record at row `y` and block `b` stands. -/
def Desc.blockAt (d : Desc) (c : TileRec) (y b : Nat) : Int := (d.src : Int) + (y : Nat) * d.ssy + (b * (blockBytes c + 4) : Nat)
/-- 03 R60: the block records of a slice, row and block, in address order. -/
def Desc.blockOrder (d : Desc) (c : TileRec) : List (Nat × Nat) :=
  sortBy (fun x y => decide (d.blockAt c x.1 x.2 ≤ d.blockAt c y.1 y.2))
    ((List.range d.ny).flatMap fun y => (List.range (d.nx / c.len)).map fun b => (y, b))
/-- The block record at row `y` and block `b` as a job of the slice of group `g`. -/
def Desc.blockJob (d : Desc) (c : TileRec) (g y b : Nat) : Job :=
  let clip := d.limy ≤ y || d.limz == 0 || d.limx ≤ b * c.len
  let n := blockBytes c + 4
  let a := d.blockAt c y b
  let cuts : List Nat := (List.range n).filter fun (k : Nat) => k == 0 || (a + (k : Int)) % 128 == 0
  { blk := some (y, b, clip)
    pieces := if clip then [] else (cuts.zip (cuts.drop 1 ++ [n])).map fun (x, e) => { src := a + x, dst := x, len := e - x, g := g, off := x } }
/-- The bytes of source and destination that a slice names (19 R310, R312, R313), by row. -/
def Desc.srcRuns (d : Desc) (c : Option TileRec) : List (Int × Nat) :=
  if !d.block then (List.range d.rows).map fun r => (d.srcRow r, d.rowBytes) else
  match c with
  | some c => (List.range d.ny).map fun y => (d.blockAt c y 0, d.nx / c.len * (blockBytes c + 4))
  | none => []
def Desc.dstRuns (d : Desc) (c : Option TileRec) : List (Int × Nat) :=
  if !d.block then (List.range d.rows).map fun r => (d.dstRow r, d.rowBytes) else
  match c with
  | some c => (List.range d.ny).flatMap fun y =>
      [((y * c.cols * c.g.width / 8 : Nat), d.nx * c.g.width / 8), ((c.soff + y * c.blocks : Nat), d.nx / c.len)]
  | none => []
/-- 19 R313: does the source box of one slice share a byte with the destination box of another, or with its own? -/
def Desc.overlaps (d q : Desc) (c : Option TileRec) : Bool :=
  d.sspace == q.dspace && (d.srcRuns c).any fun x => (q.dstRuns c).any fun y => x.1 < y.1 + y.2 && y.1 < x.1 + x.2

/-- The record of the range that a slice's handle names. -/
def State.sliceRec (s : State) (c : Copy) (x : CSlice) : Option TileRec :=
  match c.team, x.handle with
  | some tk, some k => (s.range tk k).record.map tileRec
  | _, _ => none

/-- The next job of the slice of group `g`, if the place it has come to begins one, and the slice moved on past that place. -/
def CSlice.takeUp (x : CSlice) (c : Copy) (g : Nat) (d : Desc) (r : Option TileRec) : Option (Nat × Job) × CSlice :=
  if d.block then
    match r.bind fun r => (d.blockOrder r)[x.row]?.map fun e => d.blockJob r g e.1 e.2 with
    | some j => (some (x.row, j), { x with row := x.row + 1 })
    | none => (none, { x with row := max (x.row + 1) d.ny })
  else
    let l := (d.dstRow x.row + x.off) / 128
    let (_, e) := d.inLine x.row l
    let x' := if e < d.rowBytes then { x with off := e } else { x with row := x.row + 1, off := 0 }
    if x.past d l || !c.leads g d l then (none, x')
    else (some (x.row * d.rowBytes + x.off, c.lineJob g d l), x')
/-- Places of a slice as it takes them up: rows, or block records. -/
def Desc.steps (d : Desc) (c : Option TileRec) : Nat :=
  if d.block then (match c with | some c => d.ny * (d.nx / c.len) | none => d.ny) else d.rows

/-! Records and holds of copies (19 R313; 23 R365, R371). -/

def Copy.src (c : Copy) : Nat := 512 + c.die
def State.modSlice (s : State) (cid g : Nat) (f : CSlice → CSlice) : State :=
  { s with copies := tmod s.copies cid fun c => { c with slices := tmod c.slices g f } }
def State.slice (s : State) (cid g : Nat) : Option CSlice := (tget? s.copies cid).bind fun c => tget? c.slices g
/-- What the records of a copy name: its team or its card. -/
def State.copyWho (s : State) (c : Copy) : Who :=
  match c.team.bind s.team, c.card with
  | some m, _ => m.who
  | none, some k => (tget s.cards k {}).who
  | none, none => {}
/-- A fault record of a copy. -/
def State.copyFault (s : State) (c : Copy) (cause kind : Nat) (addr detail : Nat) (parkid : Nat := 0) : State :=
  s.engineFault c.src c.ctx (s.copyWho c) cause kind addr detail parkid
/-- 19 R313: a park cause holds the slice: at a read of the job of slice `o`, or at its write. -/
def State.holdSlice (s : State) (cid g cause va : Nat) (at_ : Nat × Nat × Option Int) (c : Copy) : State :=
  let (pid, s) := s.newPark c.ctx
  (s.modSlice cid g fun x => { x with held := some (pid, cause, va), heldAt := some at_ }).copyFault c cause kPark va 0 pid
/-- 19 R313: a poison cause: recorded, status 2. -/
def State.sliceFault (s : State) (cid g cause va detail : Nat) (c : Copy) : State :=
  (s.copyFault c cause kPoison va detail).modSlice cid g fun x => { x with status := 2 }

/-! Reading (19 R309-R313). -/

/-- A piece of a job whose bytes have come, or are to be asked for. -/
def State.putPiece (s : State) (cid o job : Nat) (src : Int) (st : PieceSt) : State :=
  let rec go (l : List Piece) : List Piece :=
    match l with
    | [] => []
    | p :: r => if p.src == src && (match p.st with | .got .. => false | _ => true) then { p with st := st } :: r else p :: go r
  s.modSlice cid o fun x => { x with jobs := tmod x.jobs job fun j => { j with pieces := go j.pieces } }
/-- The slice that reads a piece of a job of slice `o`. -/
def State.pieceSlice (s : State) (cid o job : Nat) (src : Int) : Nat :=
  match (s.slice cid o).bind fun x => (tget? x.jobs job).bind fun j => j.pieces.find? fun p => p.src == src && p.st == .asked with
  | some p => p.g
  | none => o
/-- A piece that reads as poison. -/
def State.poisonPiece (s : State) (n : Nat) : PieceSt := .got (List.replicate n 0) (List.replicate n true) (some s.dt)

/-- 19 R310: does the computed address of an element of a space but the tile store's lie outside 0 to 2^56 − 1 (cause 13)? -/
def offSpace (a : Int) : Bool := a < 0 || (2 ^ 56 : Int) ≤ a
/-- Ask for the bytes of a piece of a job of slice `o`, or take them where the source is the core's; `x` is the slice that reads it. -/
def State.askPiece (s : State) (cid o job : Nat) (c : Copy) (x : CSlice) (d : Desc) (p : Piece) : State :=
  let put (s : State) (st : PieceSt) : State := s.putPiece cid o job p.src st
  let bad (s : State) (cause detail : Nat) : State :=
    put (s.sliceFault cid p.g cause ((p.src % 2 ^ 64).toNat) detail c) (s.poisonPiece p.len)
  let a : Access := { src := c.src, kind := .load, ctx := c.ctx, tenant := c.tenant, width := p.len, owner := .copy cid o job,
                      va := p.src.toNat }
  match d.sspace with
  | 0 =>
    if offSpace p.src then bad s 13 0 else
    match s.xlateDie c.die c.ctx p.src.toNat .read with
    | .ok key r => put (s.engineRead { a with key := key, recoverable := r }) .asked
    | y => if isParkCause y.cause then s.holdSlice cid p.g y.cause p.src.toNat (o, job, some p.src) c else bad s y.cause y.detail
  | 1 =>
    if offSpace p.src then bad s 13 0
    else if (s.spsize : Int) ≤ p.src then bad s 14 0
    else put (s.engineRead { a with space := .sp, key := spBase c.die + p.src.toNat }) .asked
  | 2 =>
    match c.team.bind s.team with
    | none => bad s 14 0
    | some m =>
      if offSpace p.src then bad s 13 0 else if (m.shSize : Int) ≤ p.src then bad s 14 0 else
      let k := p.src.toNat
      let marks := (List.range p.len).map fun i => m.shPoison.contains ((k + i) / 4 * 4)
      let s := if marks.contains true then s.sliceFault cid p.g 17 k 0 c else s
      put s (.got (mgets m.sh k p.len) marks (some s.dt))
  | _ =>
    match x.image with
    | some r =>
      if p.src < 0 || ((512 * r.gran : Nat) : Int) ≤ p.src then bad s 19 0 else
      let k := p.src.toNat
      let marks := (List.range p.len).map fun i => r.poison.contains (2 * (k + i)) || r.poison.contains (2 * (k + i) + 1)
      let s := if marks.contains true then s.sliceFault cid p.g 17 k 0 c else s
      put s (.got (mgets r.bytes k p.len) marks (some s.dt))
    | none => bad s 19 0

/-! Writing (19 R309, R311-R313). -/

/-- The runs of a job whose bytes have all come: destination, bytes, poison by byte; an element with a poisoned byte is poison whole
(19 R313). -/
def Job.data (j : Job) : Option (List (Int × List Byte × List Bool)) :=
  let got := j.pieces.filterMap fun p => match p.st with | .got b m _ => some (p, b, m) | _ => none
  if got.length ≠ j.pieces.length then none else
  let elem (p : Piece) (k : Nat) : Nat × Nat × Nat := (p.g, p.row, (p.off + k) / p.size)
  let hurt := got.flatMap fun (p, _, m) => (m.zipIdx.filter (·.1)).map fun x => elem p x.2
  some ((got.filter (·.1.keep)).map fun (p, b, m) => (p.dst, b, m.zipIdx.map fun (x, k) => x || (!hurt.isEmpty && hurt.contains (elem p k))))
/-- The poison marks by word of a run of bytes at an address. -/
def wordMarks (a : Nat) (bad : List Bool) : List Bool :=
  (List.range ((a % 4 + bad.length + 3) / 4)).map fun w =>
    bad.zipIdx.any fun (b, k) => b && (a + k) / 4 == a / 4 + w

/-- A job is done. -/
def State.dropJob (s : State) (cid g job : Nat) : State := s.modSlice cid g fun x => { x with jobs := terase x.jobs job }
/-- 19 R313: a write is discarded. -/
def State.discardJob (s : State) (cid g job cause detail : Nat) (c : Copy) (at_ : Int) : State :=
  ((s.sliceFault cid g cause ((at_ % 2 ^ 64).toNat) detail c).modSlice cid g fun x =>
    { x with badLines := if x.badLines.contains (at_ / 128) then x.badLines else x.badLines ++ [at_ / 128] }).dropJob cid g job
/-- 23 R373: a line is written as poison. -/
def State.badLine (s : State) (cid g : Nat) (l : Int) : State :=
  s.modSlice cid g fun x => { x with badLines := if x.badLines.contains l then x.badLines else x.badLines ++ [l] }

/-- 15 R256: at a copy's first write to a range, every row and column that it writes becomes stale. -/
def State.staleAll (s : State) (cid tk k : Nat) (c : Copy) : State :=
  if c.staled then s else
  let r := s.range tk k
  let runs := c.slices.flatMap fun e => match e.2.desc with
    | some (d : Desc) => if d.dspace == 3 then d.dstRuns (r.record.map tileRec) else []
    | none => []
  let r := runs.foldl (fun (r : Range) x => r.touch x.1.toNat ((x.1 + x.2).toNat - x.1.toNat) false) r
  { s.setRange tk k r with copies := tmod s.copies cid fun c => { c with staled := true } }

/-- Put bytes into a range, as the copy computes its checksums on entry (15 R256). -/
def State.enterRange (s : State) (cid g tk k off : Nat) (b : List Byte) (bad : List Bool) : State :=
  let s := if bad.contains true then
      (b.zip bad).zipIdx.foldl (fun s (x, n) => s.setRange tk k ((s.range tk k).write (off + n) [x.1] x.2)) s
    else s.setRange tk k ((s.range tk k).write off b false)
  s.modSlice cid g fun x => { x with entered := ((b.zip bad).zipIdx).foldl (fun t (x, n) => tset t (off + n) x) x.entered }

/-- 03 R60: why a block record is malformed, if it is: 0 its padding, 1 a quad, 2 its scale. R60 names the three and gives them no number:
these are the model's, in the order of its table (log 125). -/
def malformedBlock (c : TileRec) (b : List Byte) : Option Nat :=
  let n := blockBytes c
  if (b.drop (n + 1)).any (· ≠ 0) then some 0
  else if c.g == .k4x && (List.range (n / 2)).any fun q => (k4xQuad (leNat ((b.drop (2 * q)).take 2))).isNone then some 1
  else if b.getD n 0 == 0xFF then some 2
  else none

/-- 19 R312: a block record goes to its elements and its scale. A record some of whose bytes read as poison is checked with those bytes
as 0 (log 99); its elements and scale with a poisoned byte are poison (R313), and a record that fails is poison whole (03 R60). -/
def State.writeBlock (s : State) (cid g job : Nat) (c : Copy) (x : CSlice) (d : Desc) (y b : Nat) (clip : Bool)
    (l : List (Int × List Byte × List Bool)) : State :=
  match c.team, x.handle, s.sliceRec c x with
  | some tk, some k, some r =>
    let n := blockBytes r
    let bad := l.flatMap fun e => e.2.2
    let raw := ((l.flatMap fun e => e.2.1).zip bad).map fun (v, p) => if p then 0 else v
    let why := if clip then none else malformedBlock r raw
    let s := match why with
      | some w => s.sliceFault cid g 20 ((d.blockAt r y b) % 2 ^ 64).toNat w c
      | none => s
    let data := if clip then List.replicate n 0 else raw.take n
    let marks := if clip then List.replicate n false else if why.isSome then List.replicate n true else bad.take n
    let s := s.enterRange cid g tk k (y * r.cols * r.g.width / 8 + b * n) data marks
    let s := s.enterRange cid g tk k (r.soff + y * r.blocks + b) [if clip then 0x7F else raw.getD n 0] [why.isSome || (!clip && bad.getD n false)]
    s.dropJob cid g job
  | _, _, _ => s.dropJob cid g job

/-- What a job writes into storage of the core, once it has left the engine (25 R385). -/
def State.storeJob (s : State) (cid g job : Nat) : State :=
  match tget? s.copies cid, s.slice cid g with
  | some c, some x =>
    match x.desc, (tget? x.jobs job).bind fun j => j.data.map fun l => (j, l) with
    | some d, some (j, l) =>
      let at_ := (l.headD (0, [], [])).1
      let s := if l.any fun e => e.2.2.contains true then s.badLine cid g (at_ / 128) else s
      let s := match c.team, x.handle with
        | some tk, some k => if d.dspace == 3 then s.staleAll cid tk k c else s
        | _, _ => s
      match j.blk with
      | some (y, b, clip) => s.writeBlock cid g job c x d y b clip l
      | none =>
        if d.dspace == 2 then
          match c.team.bind s.team with
          | none => s.discardJob cid g job 14 0 c at_
          | some m =>
            if offSpace at_ then s.discardJob cid g job 13 0 c at_ else
            if (m.shSize : Int) ≤ at_ then s.discardJob cid g job 14 0 c at_ else
            let m := l.foldl (fun m e => m.shPut e.1.toNat e.2.1 (wordMarks e.1.toNat e.2.2)) m
            ({ s with teams := tset s.teams (c.team.getD 0) m }).dropJob cid g job
        else
          match c.team, x.handle with
          | some tk, some k =>
            if at_ < 0 || ((512 * (s.range tk k).gran : Nat) : Int) ≤ at_ then s.discardJob cid g job 19 0 c at_ else
            (l.foldl (fun s e => s.enterRange cid g tk k e.1.toNat e.2.1 e.2.2) s).dropJob cid g job
          | _, _ => s.discardJob cid g job 19 0 c at_
    | _, _ => s.dropJob cid g job
  | _, _ => s

/-- A job whose bytes have come is written: at its home slice, or in the core's own storage, once it has left the engine. -/
def State.writeJob (s : State) (cid g job : Nat) (c : Copy) (d : Desc) (l : List (Int × List Byte × List Bool)) : State :=
  let sent (s : State) : State := s.modSlice cid g fun x => { x with jobs := tmod x.jobs job fun j => { j with written := true } }
  if 2 ≤ d.dspace then
    let (id, s) := s.fresh
    sent { s with accs := tset s.accs id { src := c.src, kind := .engine, space := .sh, ctx := c.ctx, tenant := c.tenant, dt := s.dt
                                           entered := true, owner := .copy cid g job } }
  else match l with
    | [] => s.dropJob cid g job
    | (at_, b0, m0) :: rest =>
      let line := at_ / 128
      let send (s : State) (key : Nat) (spc : Space) : State :=
        let k (e : Int × List Byte × List Bool) : Nat := key / 128 * 128 + (e.1 - 128 * line).toNat
        let s := if l.any fun e => e.2.2.contains true then s.badLine cid g line else s
        sent (s.engineWrite { src := c.src, kind := .engine, space := spc, ctx := c.ctx, tenant := c.tenant, va := at_.toNat,
                              key := k (at_, b0, m0), width := b0.length, data := b0, pois := wordMarks (k (at_, b0, m0)) m0,
                              more := rest.map fun e => (k e, e.2.1, wordMarks (k e) e.2.2), owner := .copy cid g job })
      if d.dspace == 1 then
        if offSpace at_ then s.discardJob cid g job 13 0 c at_
        else if (s.spsize : Int) ≤ at_ then s.discardJob cid g job 14 0 c at_
        else send s (spBase c.die + at_.toNat) .sp
      else
        if offSpace at_ then s.discardJob cid g job 13 0 c at_ else
        match s.xlateDie c.die c.ctx at_.toNat .write with
        | .ok key _ => send s key .g
        | y => if isParkCause y.cause then s.holdSlice cid g y.cause at_.toNat (g, job, none) c
               else s.discardJob cid g job y.cause y.detail c at_

/-- 23 R366: the access that holds a slice is made again, or meets cause 24: its element reads as poison, or its write is discarded. -/
def State.resumeSlice (s : State) (cid g : Nat) (c : Copy) (fail : Bool) : State :=
  let at_ := (s.slice cid g).bind (·.heldAt)
  let s := s.modSlice cid g fun x => { x with held := none, heldAt := none }
  match at_ with
  | some (o, job, src) =>
    if !fail then s else
    match ((s.slice cid o).bind fun x => tget? x.jobs job).map (·.pieces), src with
    | some ps, some a =>
      match ps.find? fun p => p.g == g && p.src == a && p.st == .todo with
      | some p => (s.sliceFault cid g 24 ((a % 2 ^ 64).toNat) 0 c).putPiece cid o job a (s.poisonPiece p.len)
      | none => s
    | some ps, none => s.discardJob cid o job 24 0 c ((ps.filter (·.keep)).headD { src := 0, dst := 0, len := 0 }).dst
    | none, _ => s
  | none => s

/-! Starting, working and ending (19 R304, R308, R314, R324). -/

/-- The slices that have a descriptor, by group. -/
def Copy.real (c : Copy) : List CSlice := (c.slices.filter fun e => e.2.desc.isSome).map (·.2)

/-- Is byte `a` of a space within rows that a slice reads? -/
def covers (l : List (Int × Nat)) (a n : Nat) : Bool :=
  (List.range n).all fun k => l.any fun e => e.1 ≤ ((a + k : Nat) : Int) && ((a + k : Nat) : Int) < e.1 + e.2
/-- Rows and columns of a tile's data that runs of bytes cover in full. -/
def fullLines (c : TileRec) (l : List (Int × Nat)) : List Nat × List Nat :=
  let w := c.g.width
  let cell (i j : Nat) : Bool := let b := (i * c.cols + j) * w / 8; covers l b (max 1 (w / 8))
  ((List.range c.rows).filter fun i => (List.range c.cols).all fun j => cell i j,
   (List.range c.cols).filter fun j => (List.range c.rows).all fun i => cell i j)

/-- 19 R314: the smallest span that covers a slice's writes; it holds no line where they leave global memory. -/
def Desc.span (d : Desc) : Span :=
  if d.dspace ≠ 0 then {} else
  let starts := (List.range d.rows).map d.dstRow
  let lo := starts.foldl min (d.dstRow 0)
  let hi := starts.foldl max (d.dstRow 0) + d.rowBytes
  let first := (lo / 128).toNat
  { first := first, count := ((hi + 127) / 128).toNat - first }

/-- The start of a slice: its region joins its barrier; a tile-store source is a matrix read, and the bytes read are those that it
leaves (15 R257, R258). A row or column counts as read in full where the slices of the copy read it in full together (19 R308). -/
def State.beginSlice (s : State) (cid g : Nat) (c : Copy) (x : CSlice) (d : Desc) : State :=
  let s := s.modSlice cid g fun x => { x with begun := true, clipped := d.clips }
  match c.team with
  | none => s
  | some tk =>
    let s := if x.comp == 1 then
        let r := { d.span with lines := s.spanLines (coreOf tk) c.ctx d.span }
        s.modTeam tk fun m =>
          let b := tget m.tbs x.tb {}
          { m with tbs := tset m.tbs x.tb (if b.regions.length < 8 then { b with regions := b.regions ++ [r] } else { b with overfull := true }) }
      else s
    match d.sspace, x.handle, s.sliceRec c x with
    | 3, some k, some r =>
      let (rows, cols) := fullLines r (c.real.flatMap fun y => match y.desc with
        | some (q : Desc) => if q.sspace ≠ 3 then [] else (List.range q.rows).map fun n => (q.srcRow n, q.liveBytes n)
        | none => [])
      let (rg, evs) := (s.range tk k).matrixRead r rows cols
      ((s.setRange tk k rg).tileEvents tk g x.lanes 0 0 k evs).modSlice cid g fun x => { x with image := some rg }
    | 3, some k, none => s.modSlice cid g fun x => { x with image := some (s.range tk k) }
    | _, _, _ => s

/-- 19 R308, R309: may a started slice begin: the stores and atomics of its group before it are acknowledged? -/
def State.sliceMayBegin (s : State) (c : Copy) (x : CSlice) : Bool :=
  match c.team with
  | none => true
  | some tk => !(s.accs.any fun a => a.1 < x.id && a.2.tk == tk && a.2.g == x.g && a.2.isWrite && a.2.space != .sh)

/-- Work on a slice, while its engine has room for its records (27 R397): take up jobs, ask for bytes, write what has come, until held or nothing is left to do now. -/
def State.workSlice (s : State) (cid g : Nat) : Nat → State
  | 0 => s
  | n + 1 =>
    match tget? s.copies cid, s.slice cid g with
    | some c, some x =>
      match x.desc with
      | none => s
      | some d =>
        if !c.started || x.ended || x.held.isSome || !s.roomAt c.src then s else
        if !x.begun then
          if s.sliceMayBegin c x then (s.beginSlice cid g c x d).workSlice cid g n else s
        else
          let r := s.sliceRec c x
          let ready := (if d.block then x.jobs.take 1 else x.jobs).findSome? fun j =>
            if j.2.written then none else j.2.data.map fun l => (j.1, l)
          let ask := x.jobs.findSome? fun j => (j.2.pieces.find? fun p => p.st == .todo &&
            ((tget? c.slices p.g).any fun y => y.begun && y.held.isNone)).map fun p => (j.1, p)
          match ready, ask with
          | some (k, l), _ => (s.writeJob cid g k c d l).workSlice cid g n
          | none, some (k, p) =>
            match tget? c.slices p.g with
            | some y => (s.askPiece cid g k c y (y.desc.getD {}) p).workSlice cid g n
            | none => s
          | none, none =>
            if 8 ≤ x.jobs.length || d.steps r ≤ x.row then s else
            let (j, x') := x.takeUp c g d r
            let s := s.modSlice cid g fun _ => match j with
              | some (k, j) => { x' with jobs := tset x'.jobs k j }
              | none => x'
            s.workSlice cid g n
    | _, _ => s

/-- 19 R304, R313, R324, R331: what refuses a slice: its code, or 0. -/
def State.sliceCode (s : State) (c : Copy) (x : CSlice) : Nat :=
  match x.desc with
  | none => 0
  | some d =>
    if d.bad || ((d.sspace == 3 || d.dspace == 3) && x.handle.isNone) then 16
    else if d.block then
      if d.dspace ≠ 3 || d.size ≠ 1 || d.dst ≠ 0 || d.ssz ≠ 0 || d.dsy ≠ 0 || d.dsz ≠ 0 || d.fill ≠ 0 || d.nz ≠ 1 then 16
      else match s.sliceRec c x with
        | none => 20
        | some r => if r.sc && d.limx % r.len ≠ 0 then 16
                    else if !r.sc || r.cols < d.nx || d.nx % r.len ≠ 0 || r.rows < d.ny then 20 else 0
    else 0

/-- 19 R304, R314, R324: what refuses a team copy as it starts, in the order of log 45. -/
def State.copyCode (s : State) (c : Copy) : Nat :=
  let all := c.slices.map (·.2)
  if 1 < ((all.map fun (x : CSlice) => (x.comp, x.tb, x.handle)).eraseDups).length then 18
  else if (all.any fun (x : CSlice) => x.comp == 2) && (match c.real.head? with
      | some r => r.desc.any fun (d : Desc) => d.cnt == 0 && !d.bad
      | none => true) then 19
  else match (c.real.map (s.sliceCode c)).find? (· ≠ 0) with
    | some k => k
    | none =>
      let ds := c.real.filterMap fun x => x.desc.map fun d => (d, s.sliceRec c x)
      if ds.any fun (d, r) => ds.any fun (q, _) => d.overlaps q r then 17 else 0

/-- 19 R314: the end of a team copy: its counter, its record, its word in q1. -/
def State.endCopy (s : State) (cid code : Nat) : State :=
  match tget? s.copies cid with
  | none => s
  | some c =>
    match c.team with
    | none => s
    | some tk =>
      let s := { s with copies := terase s.copies cid }
      let s := match c.real with
        | x :: _ =>
          let cnt := match x.desc with | some (d : Desc) => d.cnt | none => 0
          if x.comp == 2 && code ≠ 18 && code ≠ 19 && cnt ≠ 0 then s.countUp c.src c.ctx c.tenant cnt (s.copyWho c) .none else s
        | [] => s
      let name := ({ typ := 9, b0 := code, f24 := match c.real with | x :: _ => (match x.desc with | some (d : Desc) => d.dst | none => 0) | [] => 0,
                     f32 := (c.slices.map (·.2.bytes)).foldl (· + ·) 0, f48 := c.cid } : Rec)
      let s := s.emit c.src { s.nameRec tk 0 [] name with thread := 0xFFFF, core := 0xFFFF }
      (s.engineEntry tk 1 (wn (c.num % 2 ^ 16 + code % 256 * 2 ^ 16))).relSettle tk

/-- 19 R308, R304: a team copy starts when every group with a live thread has issued its slice and the descriptors are read;
or it is refused. -/
def State.copyTry (s : State) (cid : Nat) : State :=
  match tget? s.copies cid with
  | none => s
  | some c =>
    match c.team with
    | none => s
    | some tk =>
      match s.team tk with
      | none => s
      | some m =>
        let wanted := (m.groups.filter fun g => !g.2.retired && !g.2.liveThreads.isEmpty).map (·.1)
        if c.started || !wanted.all (fun g => (tget? c.slices g).isSome) || c.slices.any (fun e => !e.2.empty && e.2.desc.isNone) then s else
        let code := s.copyCode c
        if code ≠ 0 then s.endCopy cid code else
        let (n, s) := s.newCid c.src
        let s := { s with copies := tmod s.copies cid fun c => { c with started := true, cid := n, slices := c.slices.map fun (g, x) =>
            (g, if x.empty then { x with ended := true } else x) } }
        if c.slices.all (·.2.empty) then s.endCopy cid 0 else s

/-- Start what can start, and work on what has started. -/
def State.copyWork (s : State) : State :=
  let s := overAll (tkeys s.copies) (fun s c => s.copyTry c) s
  overAll (s.copies.flatMap fun (k, c) => c.slices.map fun e => (k, e.1)) (fun s x => s.workSlice x.1 x.2 64) s

/-- 19 R308, R322-R324: `copy` and `copyts`. -/
def State.copyWord (s : State) (f : FE) (ts : Bool) : State :=
  s.engine f fun s i ps =>
    let empty := immOf f.ext % 2 == 1
    let tb := f.tb.toNat
    let comp := f.comp.toNat
    let k := f.b.toNat % 16
    let (a, s) := s.operand i kInt (ps.headD 0) f.a.toNat
    match s.team i.tk, s.group i.tk i.g with
    | some m, some gr =>
      let o := a.val.toNat
      let mode := (mget m.sh (o + 52)).toNat
      let marked := m.shMarked o 64
      if a.poison then s.killAll i.tk i.g ps 25 i.pc
      else if !(gr.liveThreads.all (· ∈ i.cand)) then s.engineTrap i ps 0
      else if comp == 1 && m.tbn ≤ tb then s.trapAll i.tk i.g ps fun _ => i.trap 37
      else if !empty && (o % 64 ≠ 0 || m.shSize < o + 64) then s.engineTrap i ps 1
      else if ts && ((s.range i.tk k).gran == 0 || (!empty && !marked && field mode 2 2 ≠ 3 && field mode 4 2 ≠ 3)) then
        s.engineTrap i ps 6
      else
        let n := gr.copyNum
        let s := s.modGroup i.tk i.g fun g => { g with copyNum := n + 1 }
        let (op, s) := s.newOp i f.ext ps [] (if empty then 0 else 1)
        let (id, s) := s.fresh
        let x : CSlice := { g := i.g, id := id, dt := s.dt, empty := empty, offset := o, handle := if ts then some k else none, comp := comp,
                            tb := tb, op := some op, lanes := ps }
        let s := match s.copies.find? fun c => c.2.team == some i.tk && c.2.num == n with
          | some (cid, _) => { s with copies := tmod s.copies cid fun c => { c with slices := tset c.slices i.g x } }
          | none =>
            let (cid, s) := s.fresh
            { s with copies := tset s.copies cid { team := some i.tk, num := n, ctx := m.ctx, tenant := m.tenant,
                                                   die := dieOf (coreOf i.tk), slices := [(i.g, x)] } }
        s.copyWork
    | _, _ => s
def execCopy (f : FE) (s : State) : Host.Outcome State Fault Refusal := .next (s.copyWord f false)
def execCopyts (f : FE) (s : State) : Host.Outcome State Fault Refusal := .next (s.copyWord f true)

/-- COPY_DESCRIPTOR_READ (19 R309, R310, R323): due once the command has left and the group's earlier accesses to team shared
memory are performed; a poisoned word refuses the copy. -/
def State.descDue (s : State) (c : Copy) (x : CSlice) : Bool :=
  match c.team with
  | none => false
  | some tk => !x.empty && x.desc.isNone && s.roomAt c.src && x.dt + Config.quarantine ≤ s.dt &&
      !(s.accs.any fun a => a.1 < x.id && a.2.tk == tk && a.2.g == x.g && a.2.space == .sh)
def execCopyDescriptorRead (cid g : Nat) (s : State) : Host.Outcome State Fault Refusal :=
  .next (match tget? s.copies cid, s.slice cid g with
  | some c, some x =>
    match c.team.bind s.team with
    | none => s
    | some m =>
      if !s.descDue c x then s else
      let bad := m.shMarked x.offset 64
      let q := descOf (mgets m.sh x.offset 64)
      -- 19 R304: of a descriptor that holds a poisoned word, the counter and the destination stand where they are clean
      let d := if !bad then q else { bad := true, cnt := if m.shMarked (x.offset + 56) 8 then 0 else q.cnt
                                     dst := if m.shMarked (x.offset + 8) 8 then 0 else q.dst : Desc }
      let s := if bad then s.copyFault c 17 kFail x.offset 0 else s
      ((s.modSlice cid g fun x => { x with desc := some d }).partDone x.op).copyWork
  | _, _ => s)

/-- 15 R256: rows and columns that a copy wrote in full take the components computed on entry. -/
def State.copySidecar (s : State) (c : Copy) : State :=
  match c.team, c.slices.findSome? fun e => if (e.2.desc.map (·.dspace)) == some 3 then e.2.handle else none with
  | some tk, some k =>
    let r := s.range tk k
    match r.record with
    | none => s
    | some d =>
      let rec_ := tileRec d
      let ent : List (Nat × Byte × Bool) := c.slices.flatMap fun e => e.2.entered
      let runs := ent.map fun e => ((e.1 : Int), 1)
      let (rows, cols) := fullLines rec_ runs
      let r' := { r with bytes := ent.foldl (fun m (e : Nat × Byte × Bool) => mset m e.1 e.2.1) r.bytes
                         poison := ent.foldl (fun l (e : Nat × Byte × Bool) =>
                           let f : List Nat → Nat → List Nat := if e.2.2 then sadd else sdel
                           f (f l (2 * e.1)) (2 * e.1 + 1)) r.poison }
      let v := r'.view rec_
      s.setRange tk k { r with side := { rows := rows.foldl (fun t i => tset t i (v.rowComp i)) r.side.rows
                                         cols := cols.foldl (fun t j => tset t j (v.colComp j)) r.side.cols } }
  | _, _ => s

/-- 11 R208, 19 R314: a copy's arrival of `n` bytes on a barrier. -/
def State.tbArrival (s : State) (c : Copy) (tk k n : Nat) : State :=
  match s.team tk with
  | none => s
  | some m =>
    let b := tget m.tbs k {}
    let s := if b.pend < n then s.copyFault c 58 kEvent c.num (n - b.pend) else s
    let s := s.modTeam tk fun m => { m with tbs := tset m.tbs k { b with pend := b.pend - n } }
    if b.pend ≤ n then s.tbComplete tk k else s

/-- Bytes that a slice counts (19 R311, R312). -/
def State.sliceBytes (s : State) (c : Copy) (x : CSlice) : Nat :=
  match x.desc with
  | none => 0
  | some d =>
    if d.block then match s.sliceRec c x with
      | some r => d.ny * (d.nx * r.g.width / 8 + d.nx / r.len)
      | none => 0
    else d.rows * d.rowBytes

/-- COPY_SLICE_COMPLETE (19 R314): all the writes of a slice are acknowledged. -/
def State.sliceDue (s : State) (c : Copy) (x : CSlice) : Bool :=
  match x.desc with
  | none => false
  | some d => c.started && x.begun && !x.ended && x.held.isNone && d.steps (s.sliceRec c x) ≤ x.row && x.jobs.isEmpty && c.sharedDone x.g d
def execCopySliceComplete (cid g : Nat) (s : State) : Host.Outcome State Fault Refusal :=
  .next (match tget? s.copies cid, s.slice cid g with
  | some c, some x =>
    if !s.sliceDue c x then s else
    let n := s.sliceBytes c x
    let s := s.modSlice cid g fun x => { x with ended := true, bytes := n }
    let c := tget s.copies cid {}
    let last := c.slices.all (·.2.ended)
    let s := if last then s.copySidecar c else s
    let s := match c.team with
      | some tk => if x.comp == 1 then s.tbArrival c tk x.tb n else s
      | none => s
    let code := if c.slices.any (·.2.status == 2) then 2 else if c.slices.any (·.2.clipped) then 1 else 0
    if last && c.team.isSome then s.endCopy cid code else s
  | _, _ => s)

end Sys2Proof.Machine
end

