-- ==== Sys2Proof/Machine/Launch.lean ====
section
/-! DEFINITION. The graph launcher: cards, their checks, edges, states, completion records and signals, graphs, and the rings
of the launcher queues (19 R301-R307, R327; 07 R139-R141; 29 R420). -/

namespace Sys2Proof.Machine

/-- Source number of the graph launcher (27 R397). -/
def launcher : Nat := 771

/-! Reading objects (19 R303, R307). -/

/-- What a read of bytes of a context's memory meets: a line that something else has reached before, so that the read waits (12 R217);
the first cause in table order with its address and DETAIL; or the bytes. -/
inductive ObjRead where
  | busy
  | bytes (l : List Byte)
  | bad (cause va detail : Nat)
deriving DecidableEq, Repr

/-- Parts of a run of bytes, each within one page: address and length. -/
def pageParts (va n : Nat) : List (Nat × Nat) :=
  (List.range ((va + n + 4095) / 4096 - va / 4096)).map fun k =>
    let a := max va (4096 * (va / 4096 + k))
    (a, min (va + n) (4096 * (va / 4096 + k) + 4096) - a)
/-- The read of a part of an object by a source, through the tables of a die; a held read that is failed meets cause 24 (23 R366). -/
def State.readPart (s : State) (src die ctx a n : Nat) (fail : Bool) : ObjRead :=
  if fail then .bad 24 a 0 else if 2 ^ 56 ≤ a then .bad 13 a 0 else
  match s.xlateDie die ctx a .read with
  | .ok key r =>
    let marked := s.anyMarked key n
    if !(s.linkUp key && s.clearRead src key n) then .busy
    else if marked && r then .bad 10 a 0 else if s.anyOpen key n then .bad 16 a 0
    else if marked then .bad 17 a 0 else .bytes (s.bytes key n)
  | x => .bad x.cause a x.detail
/-- Two parts together. -/
def ObjRead.join : ObjRead → ObjRead → ObjRead
  | .busy, _ | _, .busy => .busy
  | .bad c a d, .bad c' a' d' => if c' < c then .bad c' a' d' else .bad c a d
  | .bad c a d, .bytes _ | .bytes _, .bad c a d => .bad c a d
  | .bytes l, .bytes m => .bytes (l ++ m)
/-- An object is read whole; `fails` are the addresses of its parts that are failed. -/
def State.readObj (s : State) (src die ctx va n : Nat) (fails : List Nat := []) : ObjRead :=
  (pageParts va n).foldl (fun r x => r.join (s.readPart src die ctx x.1 x.2 (fails.contains x.1))) (.bytes [])

/-! The fields of a card (19 R301, R302; 07 R139; 01 R20, R21). -/

/-- A little-endian field of some bytes. -/
def le (b : List Byte) (o n : Nat) : Nat := leNat ((b.drop o).take n)
/-- Are bytes [o, e) all 0? -/
def zeros (b : List Byte) (o e : Nat) : Bool := ((b.drop o).take (e - o)).all (· == 0)

/-- 19 R302: the body of a kernel launch card. -/
def kcardOf (addr : Nat) (b : List Byte) : KCard :=
  let code := le b 64 8
  { addr := addr, cardid := wn (le b 4 4), code := code, gx := le b 72 4, gy := le b 76 2, gz := le b 78 2, hframe := le b 81 1,
    tbn := le b 82 1, wdlog := if le b 83 1 == 0 then 24 else le b 83 1, stagger := le b 84 2, shu := le b 86 2,
    roles := (List.range (le b 80 1)).map fun r => (le b (88 + 8 * r) 1, le b (89 + 8 * r) 1, code + 4 * le b (92 + 8 * r) 4),
    hentry := le b 120 8, spillArea := le b 128 8, spillSize := le b 136 4, linkArea := le b 144 8, linkSize := le b 140 4,
    sets := le b 152 4 }
/-- 19 R302, 01 R20, R21: do its fields keep their limits? -/
def kcardOk (b : List Byte) : Bool :=
  let k := kcardOf 0 b
  let n := le b 80 1
  let wd := le b 83 1
  let m := if k.sets == 0 then k.gx * k.gy * k.gz else k.sets
  k.code % 4 == 0 && 0 < k.gx && 0 < k.gy && 0 < k.gz && 1 ≤ n && n ≤ 4 && k.hframe ≤ 64 && k.hframe % 8 == 0 && k.tbn ≤ 64 &&
    (wd == 0 || (10 ≤ wd && wd ≤ 40)) && k.shu ≤ 128 &&
    ((List.range 4).all fun r => if n ≤ r then zeros b (88 + 8 * r) (96 + 8 * r) else
      1 ≤ le b (88 + 8 * r) 1 && le b (88 + 8 * r) 1 ≤ 16 && 32 ≤ le b (89 + 8 * r) 1 && zeros b (90 + 8 * r) (92 + 8 * r)) &&
    (k.roles.map (·.1)).foldl (· + ·) 0 ≤ 16 && k.spillArea % 1024 == 0 && k.spillSize % 1024 == 0 && k.linkArea % 1024 == 0 &&
    k.linkSize % 256 == 0 && k.sets ≤ 2 ^ 20 && k.spillArea + k.spillSize * 16 * m ≤ 2 ^ 56 &&
    k.linkArea + k.linkSize * 16 * m ≤ 2 ^ 56 && zeros b 156 256

/-- A card as its 512 bytes give it. -/
def cardOf (addr : Nat) (b : List Byte) : Card :=
  let region (i : Nat) : Nat × Nat := (le b (256 + 16 * i) 8, le b (264 + 16 * i) 8)
  let wgt := (List.range 8).map fun c => le b (16 + c) 1
  { addr := addr, cardid := wn (le b 4 4), cnt := le b 8 8, wgt := if wgt.all (· == 0) then [] else wgt,
    reads := (List.range (min 8 (le b 1 1))).map region, writes := (List.range (min 8 (le b 2 1))).map fun i => region (8 + i),
    body := if le b 0 1 == 1 then .kernel (kcardOf addr b) else if le b 0 1 == 3 then .collective (le b 64 8)
            else .copy (descOf ((b.drop 64).take 64)) }
/-- 19 R301-R304, R310: the code that refuses a card which has been read whole, or 0. -/
def cardCheck (b : List Byte) : Nat :=
  let kind := le b 0 1
  let region (i : Nat) : Nat × Nat := (le b (256 + 16 * i) 8, le b (264 + 16 * i) 8)
  let used (i : Nat) : Bool := i < le b 1 1 || (8 ≤ i && i < 8 + le b 2 1)
  let okRegion (i : Nat) : Bool :=
    let (a, n) := region i
    if used i then a % 128 == 0 && n % 128 == 0 && 128 ≤ n && n ≤ 2 ^ 48 else a == 0 && n == 0
  let header := 1 ≤ kind && kind ≤ 3 && le b 1 1 ≤ 8 && le b 2 1 ≤ 8 && le b 3 1 < 8 && le b 8 8 % 8 == 0 && zeros b 24 48 &&
    (List.range 16).all okRegion
  if !header then 16 else
  match kind with
  | 1 => if kcardOk b then 0 else 16
  | 2 =>
    let d := descOf ((b.drop 64).take 64)
    if d.bad || 2 ≤ d.sspace || 2 ≤ d.dspace || d.block || !zeros b 128 256 then 16 else if d.overlaps d none then 17 else 0
  | _ => if zeros b 72 256 then 0 else 16

/-! Edges (07 R140; 19 R305). -/

/-- Do two lists of regions share a line? -/
def regionsMeet (l k : List (Nat × Nat)) : Bool := l.any fun x => k.any fun y => x.1 < y.1 + y.2 && y.1 < x.1 + x.2
/-- 07 R140: does footprint order put X before Y? -/
def Card.before (x y : Card) : Bool := regionsMeet x.writes y.reads || regionsMeet x.reads y.writes || regionsMeet x.writes y.writes

/-! States, records and signals (19 R303, R306, R327; 27 R400; 29 R421). -/

/-- Codes of R306. -/
def CardSt.code (t : CardSt) : Nat :=
  match t with | .queued => 0 | .waiting => 1 | .ready => 2 | .running => 3 | .refused => 4 | .cancelled => 5 | .ended => 6
def State.modCard (s : State) (id : Nat) (f : Card → Card) : State := { s with cards := tmod s.cards id f }
/-- A card enters a state: its record of type 8. -/
def State.cardState (s : State) (id : Nat) (t : CardSt) : State :=
  let s := s.modCard id fun c => { c with st := t }
  match tget? s.cards id with
  | none => s
  | some c => s.emit launcher { typ := 8, b0 := t.code + 65536 * c.status, core := launcher, f24 := c.addr, f32 := c.cid, f48 := c.failed, dt := s.dt }

/-- The slot whose team has a number. -/
def State.teamAt (s : State) (uid : Nat) : Option Nat := (s.teams.find? fun e => e.2.uid == uid).map (·.1)
/-- 19 R314, R327, 23 R375 (cause 62): an engine's word for a queue of a team, wherever it is: bound, saved, or retired. -/
def State.uidEntry (s : State) (src ctx : Nat) (u : Who) (q : Nat) (w : Word) : State :=
  match s.teamAt u.uid with
  | some tk => s.engineEntry tk q w
  | none =>
    match s.saves.find? fun e => e.2.team.uid == u.uid with
    | some (k, _) => { s with saves := tmod s.saves k fun v => { v with team := { v.team with
        qwait := tset v.team.qwait q (tget v.team.qwait q [] ++ [(s.dt, w)]) } } }
    | none => s.engineFault src ctx u 62 kEvent 0 w.toNat

/-- 23 R373: a node of a graph that is refused or cancelled is a failed item: a record names it, where none does (log 101). -/
def State.nodeFail (s : State) (id status : Nat) : State :=
  match tget? s.cards id with
  | none => s
  | some c =>
    if c.graph.isNone || status < 3 || (c.unread && c.addr % 64 == 0 && c.addr < 2 ^ 56) then s
    else s.engineFault launcher c.ctx c.who 0 kFail c.addr status
/-- The work of a card has ended with a status (19 R304, R306). -/
def State.cardFinish (s : State) (id : Nat) (t : CardSt) (status : Nat) : State :=
  ((s.modCard id fun c => { c with status := status, ending := 1 }).cardState id t).nodeFail id status

/-- A graph whose nodes have all left their last state (19 R307, R327). -/
def State.graphEnd (s : State) (gid : Nat) : State :=
  match tget? s.graphs gid with
  | none => s
  | some g =>
    if g.left ≠ 0 then s else
    let s := { s with graphs := terase s.graphs gid }
    let s := if g.cnt ≠ 0 then s.countUp launcher g.ctx g.tenant g.cnt (g.team.getD {}) (.graph gid) else s
    let s := match g.team with
      | some u => s.uidEntry launcher g.ctx u 5 (wn (g.nnode % 2 ^ 16 + g.status % 256 * 2 ^ 16 + 2 ^ 31))
      | none => s
    if g.queue == 0 then s else s.irq g.tenant (g.queue - 1)

/-- 19 R303, R306: the signal of a card whose record stands: counter, successors, q5 word, interrupt; the card is done. -/
def State.cardSignal (s : State) (id : Nat) : State :=
  match tget? s.cards id with
  | none => s
  | some c =>
    let s := { s with cards := terase s.cards id }
    let s := if c.cnt ≠ 0 && !c.unread then s.countUp launcher c.ctx c.tenant c.cnt c.who (.card id true) else s
    let s := overAll c.succs (fun s y =>
      match tget? s.cards y with
      | none => s
      | some d =>
        if d.ending ≠ 0 then s
        else if 3 ≤ c.status then s.cardFinish y .cancelled 3
        else
          let s := s.modCard y fun d => { d with preds := sdel d.preds id }
          if d.st == .waiting && (sdel d.preds id).isEmpty then s.cardState y .ready else s) s
    match c.graph with
    | some g => ({ s with graphs := tmod s.graphs g fun g => { g with left := g.left - 1, status := max g.status c.status } }).graphEnd g
    | none =>
      let s := match c.team with
        | some u => s.uidEntry launcher c.ctx u 5 (wn (c.cardid.toNat % 2 ^ 16 + c.status % 256 * 2 ^ 16))
        | none => s
      if c.queue == 0 then s else s.irq c.tenant (c.queue - 1)

/-- May the completion record of a card be written: its work has ended, the writes of copies of its saved teams are acknowledged (07 R141),
and the launcher issues (27 R397)? -/
def State.cardEndDue (s : State) (id : Nat) (c : Card) : Bool :=
  c.ending == 1 && s.roomAt launcher && !s.accs.any fun x => x.2.owner == .left id
/-- CARD_COMPLETE (19 R303): the completion record of a card whose work has ended is written, or held for a park cause; the signal
follows its acknowledgement. -/
def execCardComplete (id : Nat) (s : State) : Host.Outcome State Fault Refusal :=
  .next (match tget? s.cards id with
  | none => s
  | some c =>
    if !s.cardEndDue id c then s else
    if c.unread then s.cardSignal id else
    let data := leBytes 2 c.status ++ leBytes 2 0 ++ leBytes 4 c.failed ++ leBytes 8 s.dt
    let a : Access := { src := launcher, kind := .engine, ctx := c.ctx, tenant := c.tenant, va := c.addr + 48, width := 16, data := data,
                        owner := .card id false, who := c.who }
    match s.engineSend a with
    | (0, _, s) => s.modCard id fun c => { c with ending := 2 }
    | (k, d, s) => (s.engineFault launcher c.ctx c.who k kPoison (c.addr + 48) d).cardSignal id)

/-! Entering the queue (19 R303, R305-R307). -/

/-- Is the launcher in use (29 R426, R427)? -/
def State.launcherUp (s : State) : Bool := s.readyReg.getLsbD 14

/-- A card joins its queue: checks, derived edges, state. `force` refuses it with a code. -/
def State.cardJoin (s : State) (e : Enq) (addr : Nat) (r : ObjRead) (graph : Option Nat) (force : Nat) : Nat × State :=
  let (id, s) := s.fresh
  let base (c : Card) : Card := { c with addr := addr, ctx := e.ctx, tenant := e.tenant, queue := e.q, graph := graph,
                                         team := if graph.isSome then none else e.team, cid := e.cid }
  match r with
  | .busy => (id, s)
  | .bad cause _ detail =>
    let s := if addr % 64 ≠ 0 || 2 ^ 56 ≤ addr then s else s.engineFault launcher e.ctx {} cause kFail addr detail
    let s := { s with cards := tset s.cards id (base { unread := true }) }
    (id, (s.cardState id .queued).modCard id fun c => { c with status := if force == 0 then 16 else force })
  | .bytes b =>
    let c := base (cardOf addr b)
    let home : Nat := match s.xlateDie 0 e.ctx addr .read with | .ok key _ => key | _ => 0
    let code := if force ≠ 0 then force else
      match c.body with
      | .copy _ => if isRemote home then 16 else cardCheck b
      | _ => cardCheck b
    let preds := if force ≠ 0 then [] else
      (s.cards.filter fun x => x.2.tenant == e.tenant && x.2.queue == e.q && !x.2.unread && some x.1 ≠ e.parent && x.2.before c).map (·.1)
    let n := match c.body with | .kernel k => k.gx * k.gy * k.gz | _ => 0
    let s := { s with cards := tset s.cards id { c with preds := preds, left := n, unbound := n, status := code } }
    let s := overAll preds (fun s x => s.modCard x fun d => { d with succs := d.succs ++ [id] }) s
    (id, s.cardState id .queued)
/-- A card that stands Queued goes on (19 R306). -/
def State.cardGo (s : State) (id : Nat) : State :=
  match tget? s.cards id with
  | none => s
  | some c =>
    if c.st ≠ .queued || c.ending ≠ 0 then s
    else if c.status ≠ 0 then s.cardFinish id .refused c.status
    else if c.preds.isEmpty then s.cardState id .ready else s.cardState id .waiting

/-- Add to a tenant's QBAD (29 R420). -/
def State.qbadUp (s : State) (tenant q : Nat) : State :=
  let t := s.tenant tenant
  let x : LQueue := tget t.queues q {}
  s.setTenant tenant { t with queues := tset t.queues q { x with bad := if x.bad == 0xFFFFFFFF then x.bad else x.bad + 1 } }

/-- The next entry of a ring: its word, where one waits. -/
def State.ringEntry (s : State) (tenant q : Nat) : Option Nat :=
  match tget? (s.tenant tenant).queues q with
  | none => none
  | some x =>
    let key := x.base.toNat % 2 ^ 48 + 8 * (x.head.toNat % x.size.toNat)
    if x.size == 0 || x.head == x.tail || !s.clearRead launcher key 8 then none else some (s.dword key)
/-- The ring moves on. -/
def State.ringNext (s : State) (tenant q : Nat) : State :=
  let t := s.tenant tenant
  s.setTenant tenant { t with queues := tmod t.queues q fun x => { x with head := x.head + 1 } }
/-- Is an entry of a queue held for a park? Then nothing after it is taken. -/
def State.queueHeld (s : State) (tenant q : Nat) : Bool := s.enqs.any fun e => e.tenant == tenant && e.q == q && e.park.isSome
/-- The first entry of a queue that class E placed, or that is taken up again. -/
def State.firstEnq (s : State) (tenant q : Nat) : Option Enq := s.enqs.find? fun e => e.tenant == tenant && e.q == q

/-- The entry that a step takes: from the ring, or placed by class E; and the state without it. An entry of a ring with a reserved bit
set is skipped as one that is not aligned (29 R420): it stands with address 1. -/
def State.takeEntry (s : State) (tenant q : Nat) (ring graph : Bool) : Option (Enq × State) :=
  if !s.launcherUp || !s.roomAt launcher || s.queueHeld tenant q then none else
  if ring then
    match s.ringEntry tenant q with
    | none => none
    | some w =>
      if w.testBit 63 ≠ graph then none else
      let s := s.ringNext tenant q
      let ctx := (tget (s.tenant tenant).queues q {}).ctx
      let (cid, s) := s.newCid 1023
      some ({ tenant := tenant, q := q, ctx := ctx, addr := if field w 56 7 ≠ 0 then 1 else w % 2 ^ 56, graph := graph, cid := cid }, s)
  else
    match s.firstEnq tenant q with
    | none => none
    | some e => if e.graph ≠ graph then none else some (e, { s with enqs := s.enqs.erase e })
/-- Hold an entry for a park (19 R303): its park record names the object. -/
def State.holdEntry (s : State) (e : Enq) (cause va : Nat) : State :=
  let (pid, s) := s.newPark e.ctx
  { s with enqs := { e with park := some (pid, cause, va) } :: s.enqs }.engineFault launcher e.ctx {} cause kPark va 0 pid

/-- CARD_ENQUEUE (19 R303, R305): the launcher takes a card; an unusable ring entry is skipped and counted. -/
def execCardEnqueue (tenant q : Nat) (ring : Bool) (s : State) : Host.Outcome State Fault Refusal :=
  .next (match s.takeEntry tenant q ring false with
  | none => s
  | some (e, t) =>
    if e.addr % 64 ≠ 0 then t.qbadUp tenant q else
    let r := t.readObj launcher 0 e.ctx e.addr 512 e.fails
    match r with
    | .busy => s
    | .bytes _ =>
      let (id, t) := t.cardJoin e e.addr r none 0
      (t.partDone e.op).cardGo id
    | .bad c va _ =>
      if isParkCause c then t.holdEntry e c va else
      let (id, t) := t.cardJoin e e.addr r none 0
      (t.partDone e.op).cardGo id)

/-- Edges of a graph's bytes after its node list. -/
def graphEdges (b : List Byte) (n m : Nat) : List (Nat × Nat) := (List.range m).map fun i => (le b (8 * n + 4 * i) 2, le b (8 * n + 4 * i + 2) 2)
/-- 19 R307: do the edges form a cycle? Nodes with no edge into them are taken away until none is left, or none can be. -/
def acyclic : Nat → List Nat → List (Nat × Nat) → Bool
  | 0, l, _ => l.isEmpty
  | n + 1, l, es =>
    let free := l.filter fun x => !es.any fun e => e.2 == x
    if free.isEmpty then l.isEmpty else acyclic n (l.filter fun x => !(x ∈ free)) (es.filter fun e => !(e.1 ∈ free))

/-- A graph refused whole with code 16 (19 R307). -/
def State.graphRefuse (s : State) (e : Enq) (cnt nnode : Nat) : State :=
  let (gid, s) := s.fresh
  let g : Graph := { ctx := e.ctx, tenant := e.tenant, queue := e.q, cnt := cnt, status := 16, nnode := nnode, team := e.team }
  ({ s with graphs := tset s.graphs gid g }.partDone e.op).graphEnd gid

/-- The nodes of a graph as they are read: a card that is not aligned is never read. -/
def State.readNodes (s : State) (e : Enq) (nodes : List Nat) : List (Nat × ObjRead) :=
  nodes.map fun a => (a, if a % 64 ≠ 0 || 2 ^ 56 ≤ a then .bad 13 a 0 else s.readObj launcher 0 e.ctx a 512 e.fails)
/-- 07 R140; 19 R305, R307: the derived edges between nodes, each from a lower node to a higher one. -/
def derivedEdges (reads : List (Nat × ObjRead)) : List (Nat × Nat) :=
  let card (x : Nat × ObjRead) : Option Card := match x.2 with | .bytes b => some (cardOf x.1 b) | _ => none
  let cards := reads.zipIdx.filterMap fun (x, i) => (card x).map fun c => (i, c)
  cards.flatMap fun (j, y) => (cards.filter fun (i, x) => i < j && x.before y).map fun (i, _) => (i, j)
/-- The nodes of a graph enter the queue: with code 21 where an edge names no node, or the edges, explicit and derived, form a cycle. -/
def State.graphJoin (s : State) (e : Enq) (cnt n : Nat) (es : List (Nat × Nat)) (reads : List (Nat × ObjRead)) : State :=
  let bad := es.any (fun x => n ≤ x.1 || n ≤ x.2) || !acyclic n (List.range n) (es ++ derivedEdges reads)
  let (gid, s) := s.fresh
  let s := { s with graphs := tset s.graphs gid { ctx := e.ctx, tenant := e.tenant, queue := e.q, cnt := cnt, left := n, nnode := n, team := e.team } }
  let (ids, s) := reads.foldl (fun (ids, s) x =>
    let (id, s) := s.cardJoin e x.1 x.2 (some gid) (if bad then 21 else 0)
    (ids ++ [id], s)) (([] : List Nat), s)
  let s := if bad then s else overAll es.eraseDups (fun s x =>
    let a := ids.getD x.1 0
    let y := ids.getD x.2 0
    (s.modCard a fun c => { c with succs := if y ∈ c.succs then c.succs else c.succs ++ [y] }).modCard y fun c =>
      { c with preds := if a ∈ c.preds then c.preds else c.preds ++ [a] }) s
  overAll ids (fun s id => s.cardGo id) (s.partDone e.op)

/-- GRAPH_ENQUEUE (19 R307). A poison cause of the header, the node list or the edges is recorded with its address (23 R371). -/
def execGraphEnqueue (tenant q : Nat) (ring : Bool) (s : State) : Host.Outcome State Fault Refusal :=
  .next (match s.takeEntry tenant q ring true with
  | none => s
  | some (e, t) =>
    if e.addr % 64 ≠ 0 then t.qbadUp tenant q else
    match t.readObj launcher 0 e.ctx e.addr 16 e.fails with
    | .busy => s
    | .bad c va d =>
      if isParkCause c then t.holdEntry e c va
      else (t.engineFault launcher e.ctx {} c kFail e.addr d).graphRefuse e 0 0
    | .bytes h =>
      let n := le h 0 2
      let m := le h 2 2
      let cnt := le h 8 8
      if n == 0 || 4096 < n || 16384 < m || le h 4 4 ≠ 0 then t.graphRefuse e cnt n else
      match t.readObj launcher 0 e.ctx (e.addr + 16) (8 * n + 4 * m) e.fails with
      | .busy => s
      | .bad c va d =>
        if isParkCause c then t.holdEntry e c va else (t.engineFault launcher e.ctx {} c kFail va d).graphRefuse e cnt n
      | .bytes b =>
        let reads := t.readNodes e ((List.range n).map fun i => le b (8 * i) 8)
        if reads.any (·.2 == .busy) then s else
        match reads.find? fun x => match x.2 with | .bad c _ _ => isParkCause c | _ => false with
        | some (_, .bad c va _) => t.holdEntry e c va
        | _ => t.graphJoin e cnt n (graphEdges b n m) reads)

/-! Starting (19 R306, R310, R321; 21 R337). -/

/-- 19 R321: the weights of a card that starts become its tenant's. -/
def State.cardWeights (s : State) (c : Card) : State :=
  if c.wgt.isEmpty then s else
  s.setTenant c.tenant { s.tenant c.tenant with weights := c.wgt.zipIdx.map fun (w, k) => (k, w) }
/-- The die that homes a card's first line (19 R310). -/
def State.cardDie (s : State) (c : Card) : Nat := match s.xlateDie 0 c.ctx c.addr .read with | .ok key _ => homeDie key % 4 | _ => 0

/-- A copy card starts: its one slice begins. -/
def State.startCopyCard (s : State) (id : Nat) (c : Card) (d : Desc) : State :=
  let s := (s.cardWeights c).cardState id .running
  let die := s.cardDie c
  let (n, s) := s.newCid (512 + die)
  let (cid, s) := s.fresh
  ({ s with copies := tset s.copies cid { card := some id, ctx := c.ctx, tenant := c.tenant, die := die, started := true, cid := n,
                                          slices := [(0, { desc := some d, dt := s.dt })] } }).copyWork
/-- The end of a copy card's one slice (19 R304, R373). -/
def State.copyCardEnd (s : State) (cid : Nat) : State :=
  match tget? s.copies cid with
  | none => s
  | some c =>
    match c.card with
    | none => s
    | some id =>
      let bad := (c.slices.map (·.2.badLines.length)).foldl (· + ·) 0
      let code := if c.slices.any (·.2.status == 2) then 2 else if c.slices.any (·.2.clipped) then 1 else 0
      ({ s with copies := terase s.copies cid }.modCard id fun k => { k with failed := bad }).cardFinish id .ended code

/-- 19 R306, R373: a team of a launch has left for good; the launch ends with its last team. -/
def State.launchTeamDone (s : State) (id : Nat) (failed : Bool) : State :=
  let s := s.modCard id fun c => { c with left := c.left - 1, failed := c.failed + failed.toNat }
  match tget? s.cards id with
  | none => s
  | some c => if c.left == 0 && c.ending == 0 then s.cardFinish id .ended (if c.failed == 0 then 0 else 2) else s

end Sys2Proof.Machine
end

