-- ==== Sys2Proof/Machine/Collective.lean ====
section
/-! DEFINITION. The collective engines: tile tables, arming and re-arming, counter queries, flags, contributions, the run of an
entry, its watchdog and the events in q3 (19 R315-R320, R325, R326; 20 R330, R332, R333; 29 R425). -/

namespace Sys2Proof.Machine

/-- Source number of the collective engine of a die (27 R397). -/
def collSrc (die : Nat) : Nat := 516 + die
/-- 19 R315: staging bytes of an engine. -/
def stagingBytes : Nat := 2 ^ 23

/-! Instances and their entries. -/

def State.inst (s : State) (k : Nat) : Option Inst := tget? s.insts k
def State.centry (s : State) (k e : Nat) : Option CEntry := (s.inst k).bind fun i => tget? i.entries e
def State.modInst (s : State) (k : Nat) (f : Inst → Inst) : State := { s with insts := tmod s.insts k f }
def State.modEntry (s : State) (k e : Nat) (f : CEntry → CEntry) : State :=
  s.modInst k fun i => { i with entries := tmod i.entries e f }

/-- What the records of an instance name: its card or its team (23 R371). -/
def State.instWho (s : State) (i : Inst) : Who := match i.card with | some k => (tget s.cards k {}).who | none => i.team.getD {}
/-- A fault record of an instance. -/
def State.instFault (s : State) (i : Inst) (cause kind addr detail : Nat) (parkid : Nat := 0) : State :=
  s.engineFault (collSrc i.die) i.ctx (s.instWho i) cause kind addr detail parkid

/-- 19 R320: an event word. -/
def eventWord (collid : Word) (code e : Nat) : Word :=
  wn (collid.toNat % 2 ^ 16 + code * 2 ^ 16 + (if code == 4 || code == 5 then e % 256 * 2 ^ 24 else 0))
/-- 19 R320: an event for the starting team: kept by its context, or dropped and recorded. -/
def State.collEvent (s : State) (i : Inst) (code e : Nat) : State :=
  match i.team with
  | none => s
  | some u =>
    let w := eventWord i.collid code e
    let known := (s.teamAt u.uid).isSome || s.saves.any fun x => x.2.team.uid == u.uid
    if known && (s.ctx i.ctx).events.length < 64 then
      s.modCtx i.ctx fun c => { c with events := c.events ++ [(u.uid, w, s.dt)] }
    else s.instFault i 62 kEvent 0 w.toNat

/-! Tables (19 R315; 20 R330; 29 R425). -/

/-- 19 R315: the formats of an entry. -/
def collFmt (c : Nat) : Option Fmt :=
  if c == 0 || c == 1 || c == 2 || c == 8 || c == 9 then some (.ofCode c) else none
/-- Is a PEER code one of the domain, or one of the context's peer table? -/
def Ctx.peerOk (c : Ctx) (p : Nat) : Bool := p < 256 || (2 ^ 15 ≤ p && (tget? c.peers (p - 2 ^ 15)).isSome)
/-- 29 R425: the endpoint that a context's peer table gives for an Ultra Ethernet peer. -/
def State.endpoint (s : State) (ctx peer : Nat) : Option Dword := if peer < 2 ^ 15 then none else tget? (s.ctx ctx).peers (peer - 2 ^ 15)
/-- An entry from its 64 bytes. -/
def entryOf (b : List Byte) : CEntry :=
  { op := le b 0 1, fmt := le b 1 1, nin := le b 2 1, send := (le b 3 1).testBit 0, write := (le b 3 1).testBit 1, len := le b 4 4,
    laddr := le b 8 8, daddr := le b 16 8, peer := le b 24 2, pidx := le b 28 4, flag := le b 32 8, fval := BitVec.ofNat 64 (le b 40 8),
    senders := (List.range (min 8 (le b 2 1))).map fun i => le b (48 + 2 * i) 2 }
/-- Does an entry keep its limits? -/
def entryOk (c : Ctx) (b : List Byte) : Bool :=
  let e := entryOf b
  e.op ≤ 4 && (collFmt e.fmt).isSome && e.nin ≤ 8 && le b 3 1 < 4 && 128 ≤ e.len && e.len ≤ 2 ^ 20 && e.len % 128 == 0 &&
    zeros b 26 28 && e.flag % 8 == 0 && (e.flag ≠ 0 || e.fval == 0) && (e.laddr ≠ 0 || e.nin ≠ 0) && (e.send || e.write) &&
    (!e.send || c.peerOk e.peer) && e.senders.all c.peerOk
/-- The header of a table: an instance with no entries, and its number of entries. -/
def instOf (b : List Byte) : Inst × Nat :=
  ({ collid := wn (le b 0 4), cnt := le b 8 8, stg := le b 16 4, wdc := if le b 20 4 == 0 then 2 ^ 24 else le b 20 4 }, le b 4 4)
def headOk (b : List Byte) : Bool :=
  let (i, n) := instOf b
  1 ≤ n && n ≤ 65536 && i.cnt ≠ 0 && i.cnt % 8 == 0 && i.stg % 2 ^ 17 == 0 && 2 ^ 17 ≤ i.stg && i.stg ≤ stagingBytes &&
    le b 24 1 < 8 && zeros b 25 64

/-- What reading a table gives. -/
inductive TableRead where
  | ok (i : Inst)
  /-- it fails R315: its COLLID as read -/ | bad (collid : Word)
  /-- a read meets a cause -/ | cause (c va detail : Nat)
  /-- a line has to be waited for -/ | busy
deriving DecidableEq, Repr

/-- Read a tile table through the tables of a die. -/
def State.readTable (s : State) (die ctx va : Nat) (fails : List Nat) : TableRead :=
  match s.readObj (collSrc die) die ctx va 64 fails with
  | .busy => .busy
  | .bad c a d => .cause c a d
  | .bytes h =>
    let (i, n) := instOf h
    if !headOk h then .bad i.collid else
    match s.readObj (collSrc die) die ctx (va + 64) (64 * n) fails with
    | .busy => .busy
    | .bad c a d => .cause c a d
    | .bytes b =>
      let es := (List.range n).map fun k => (b.drop (64 * k)).take 64
      if es.all (entryOk (s.ctx ctx)) then
        .ok { i with table := va, ctx := ctx, die := die, entries := es.zipIdx.map fun (x, k) => (k, entryOf x) }
      else .bad i.collid

/-! Firing and flags (19 R316; 20 R330, R333). -/

/-- A record of the engine about an instance: it names the team that started it (27 R399). -/
def Inst.record (i : Inst) (r : Rec) : Rec :=
  let w := i.team.getD {}
  { r with launchid := w.launchid, x := w.x, y := w.y, z := w.z, core := collSrc i.die }
/-- Records of an entry: 10 it has fired, 11 it is done (27 R400). -/
def State.entryNote (s : State) (typ e : Nat) (i : Inst) (cid : Nat) : State :=
  s.emit (collSrc i.die) (i.record { typ := typ, b0 := e, f24 := i.table, f32 := i.collid.toNat, f48 := cid, dt := s.dt })
/-- An armed entry fires: the contribution that it is to send has its causal id from now on (27 R400, R403). -/
def State.fire (s : State) (k e : Nat) : State :=
  match s.inst k, s.centry k e with
  | some i, some x =>
    if x.st ≠ .armed then s else
    let (cid, s) := if x.send then s.newCid (collSrc i.die) else (0, s)
    (s.modEntry k e fun x => { x with st := .fired, firedAt := s.dt, ready := s.dt, toRead := false, cid := cid }).entryNote 10 e i cid
  | _, _ => s

/-- 19 R318: a park cause holds an entry, at a read or a write. -/
def State.holdEntryAt (s : State) (k e cause va : Nat) (write : Bool) (i : Inst) : State :=
  let (pid, s) := s.newPark i.ctx
  (s.modEntry k e fun x => { x with held := some (pid, cause, va), heldWrite := write }).instFault i cause kPark va 0 pid
/-- The held reads, or writes, of an entry that are failed. -/
def CEntry.failed (x : CEntry) (write : Bool) : List Nat := (x.fails.filter (·.1 == write)).map (·.2)

/-- The read of an entry's flag at its arming, or the one that its park held; it waits for its line (12 R217). -/
def State.flagRead (s : State) (k e : Nat) : State :=
  match s.inst k, s.centry k e with
  | some i, some x =>
    if x.st ≠ .armed || !x.toRead || x.held.isSome then s else
    if x.flag == 0 then s.fire k e else
    let read (s : State) : State := s.modEntry k e fun x => { x with toRead := false, fails := [] }
    match s.readObj (collSrc i.die) i.die i.ctx x.flag 8 (x.failed false) with
    | .busy => s
    | .bytes b => if x.fval.toNat ≤ leNat b then (read s).fire k e else read s
    | .bad c va d => if isParkCause c then s.holdEntryAt k e c va false i else (read s).instFault i c kPoison va d
  | _, _ => s
/-- 07 R143, R144: the flags of the active instances as their lines stand, an open accumulator's apart. -/
def State.flagsTest (s : State) : State :=
  let armed (x : CEntry) : Bool := x.st == .armed && x.held.isNone
  let of (p : Nat → Inst → CEntry → Bool) : List (Nat × Nat) := s.insts.flatMap fun (k, i) =>
    if i.active then (i.entries.filter fun (e, x) => armed x && p e i x).map fun (e, _) => (k, e) else []
  let s := overAll (of fun _ _ x => x.toRead) (fun s x => s.flagRead x.1 x.2) s
  let set := of fun _ i x => !x.toRead && x.flag ≠ 0 && (match s.xlateDie i.die i.ctx x.flag .read with
    | .ok key _ => s.linkUp key && s.clearRead (collSrc i.die) key 8 && !s.anyMarked key 8 && !s.anyOpen key 8 && decide (x.fval.toNat ≤ s.dword key)
    | _ => false)
  overAll set (fun s x => s.fire x.1 x.2) s

/-! Arming (19 R318, R325; 20 R332, R333). -/

/-- Is a COLLID active on a die? -/
def State.collActive (s : State) (die : Nat) (collid : Word) : Bool := s.insts.any fun x => x.2.active && x.2.die == die && x.2.collid == collid
/-- Staging reserved on a die. -/
def State.stagingUsed (s : State) (die : Nat) : Nat :=
  ((s.insts.filter fun x => x.2.active && x.2.die == die).map (·.2.stg)).foldl (· + ·) 0
/-- May an instance be armed: its COLLID is not active on its die and its staging is free? -/
def State.canArm (s : State) (i : Inst) : Bool := !s.collActive i.die i.collid && s.stagingUsed i.die + i.stg ≤ stagingBytes

/-- Arm an instance: the most recent one of its COLLID. -/
def State.armNow (s : State) (i : Inst) (final : Option Dword) : State :=
  let (k, s) := s.fresh
  let old := s.insts.filter fun x => x.2.active || x.2.collid != i.collid
  let s := { s with insts := tset old k { i with start := s.dt, final := final, active := true } }
  overAll (tkeys i.entries) (fun s e => s.flagRead k e) s

/-- The read of an instance's counter at its home slice. -/
def State.counterRead (s : State) (i : Inst) (fails : List Nat) : ObjRead := s.readObj (collSrc i.die) i.die i.ctx i.cnt 8 fails
/-- 19 R318, R325: an instance is armed with its counter as it was read; a poison cause is recorded, and leaves no final value. -/
def State.armWith (s : State) (i : Inst) (r : ObjRead) : State :=
  match r with
  | .bytes b => s.armNow i (some (BitVec.ofNat 64 (leNat b + i.entries.length)))
  | .bad c va d => (s.instFault i c kPoison va d).armNow i none
  | .busy => s

/-- An arming ends: its instruction's completion point (19 R325). -/
def State.armEnd (s : State) (id : Nat) (r : Rearm) : State := { s with rearms := terase s.rearms id }.partDone r.op
/-- A park holds an arming or a counter query. -/
def State.holdArm (s : State) (id cause va : Nat) (r : Rearm) : State :=
  let (pid, s) := s.newPark r.inst.ctx
  { s with rearms := tmod s.rearms id fun r => { r with park := some (pid, cause, va) } }.instFault r.inst cause kPark va 0 pid

/-- 19 R325: every answer is in: the instance is armed, or refused. The counter that a start counts from is read now; a park cause holds
the start. -/
def State.armDecide (s : State) (id : Nat) : State :=
  match tget? s.rearms id with
  | none => s
  | some r =>
    if r.stage ≠ 2 || !r.wait.isEmpty || r.park.isSome then s else
    if r.low then (s.collEvent r.inst 2 0).armEnd id r
    else if !s.canArm r.inst then (s.collEvent r.inst 3 0).armEnd id r
    else if r.rearm then (s.armNow r.inst (some (r.v + BitVec.ofNat 64 r.inst.entries.length))).armEnd id r
    else match s.counterRead r.inst r.fails with
      | .busy => s
      | .bad c va d => if isParkCause c then s.holdArm id c va r else (s.armWith r.inst (.bad c va d)).armEnd id r
      | x => (s.armWith r.inst x).armEnd id r

/-- 19 R325: the peers of a table. -/
def Inst.peers (i : Inst) (devno : Nat) : List Nat :=
  ((i.entries.flatMap fun (_, x) => (if x.send then [x.peer] else []) ++ x.senders).eraseDups).filter (· != devno)

/-- 19 R325: the reads of the counters of a rearm: this device's, then a query to each peer; each has its causal id (log 114). -/
def State.armCounter (s : State) (id : Nat) : State :=
  match tget? s.rearms id with
  | none => s
  | some r =>
    if r.park.isSome then s else
    let go (s : State) (low : Bool) : State :=
      let peers := r.inst.peers s.devno
      let s := { s with rearms := tmod s.rearms id fun r => { r with stage := 2, low := low, wait := peers, start := s.dt, fails := [] } }
      let s := overAll (peers.filter s.peerUp) (fun s p =>
        let (cid, s) := s.newCid (collSrc r.inst.die)
        { s with outbox := s.outbox ++ [.counterQuery cid p (s.endpoint r.inst.ctx p) r.inst.collid] }) s
      s.armDecide id
    match s.counterRead r.inst r.fails with
    | .busy => s
    | .bytes b => go s (decide (leNat b < r.v.toNat))
    | .bad c va d => if isParkCause c then s.holdArm id c va r else go (s.instFault r.inst c kPoison va d) true

/-- 19 R325: the table of an arming is read and checked. -/
def State.armTable (s : State) (id : Nat) : State :=
  match tget? s.rearms id with
  | none => s
  | some r =>
    if r.park.isSome then s else
    match s.readTable r.inst.die r.inst.ctx r.inst.table r.fails with
    | .busy => s
    | .cause c va d =>
      if isParkCause c then s.holdArm id c va r
      else ((s.instFault r.inst c kFail va d).collEvent r.inst 1 0).armEnd id r
    | .bad collid => (s.collEvent { r.inst with collid := collid } 1 0).armEnd id r
    | .ok i =>
      let i := { i with team := r.inst.team, tenant := r.inst.tenant }
      let r := { r with inst := i, fails := [] }
      if s.collActive i.die i.collid then (s.collEvent i 3 0).armEnd id r
      else if r.rearm then ({ s with rearms := tset s.rearms id { r with stage := 1 } }).armCounter id
      else ({ s with rearms := tset s.rearms id { r with stage := 2 } }).armDecide id
/-- An arming goes on from where it stands. -/
def State.armOn (s : State) (id : Nat) : State :=
  match tget? s.rearms id with
  | none => s
  | some r => if r.stage == 0 then s.armTable id else if r.stage == 1 then s.armCounter id else s.armDecide id

/-- `coll.start` and `coll.rearm` reach the engine of their die. -/
def State.collArm (s : State) (a : Access) (table : Nat) (rearm : Bool) (v : Dword) : State :=
  let (id, s) := s.fresh
  let i : Inst := { table := table, ctx := a.ctx, tenant := a.tenant, team := (s.team a.tk).map Team.who, die := dieOf a.src }
  ({ s with rearms := tset s.rearms id { inst := i, rearm := rearm, v := v, op := a.op, cid := a.cid } }).armTable id

/-- 19 R326: `coll.ready` reaches the engine. -/
def State.collReadyAt (s : State) (a : Access) (e table : Nat) : State :=
  let wrong (s : State) : State :=
    s.engineFault (collSrc (dieOf a.src)) a.ctx (((s.team a.tk).map Team.who).getD {}) 23 kEvent table e
  let s := match s.insts.find? fun x => x.2.active && x.2.table == table && x.2.ctx == a.ctx with
    | some (k, _) => match s.centry k e with
      | some x => if x.st == EntrySt.armed then s.fire k e else wrong s
      | none => wrong s
    | none => wrong s
  s.partDone a.op

/-! Counter queries (19 R325). -/

/-- Answer a peer's query: the counter of the instance of a COLLID that was armed last, or 0. The answer carries the query's causal id. -/
def State.answerQuery (s : State) (id : Nat) : State :=
  match tget? s.rearms id with
  | none => s
  | some r =>
    match r.asker with
    | none => s
    | some p =>
      let done (s : State) (v : Option Nat) : State :=
        { s with rearms := terase s.rearms id, outbox := s.outbox ++ [.counterAnswer r.cid p (v.map (BitVec.ofNat 64))] }
      if r.park.isSome then s else
      match (s.insts.filter fun x => x.2.collid == r.inst.collid).getLast? with
      | none => done s (some 0)
      | some (_, i) =>
        match s.counterRead i r.fails with
        | .busy => s
        | .bytes b => done s (some (leNat b))
        | .bad c va d =>
          if isParkCause c then s.holdArm id c va { r with inst := i }
          else done (s.instFault i c kPoison va d) none
/-- COUNTER_QUERY: a peer's query arrives by its link, with its COLLID as `value`. -/
def execCounterQuery (s : State) : Host.Outcome State Fault Refusal :=
  .next (if !s.peerUp s.input.peer then s else
    let (id, s) := s.fresh
    let i : Inst := match (s.insts.filter fun x => x.2.collid == s.input.value.setWidth 32).getLast? with
      | some x => x.2
      | none => { collid := s.input.value.setWidth 32 }
    ({ s with rearms := tset s.rearms id { inst := i, asker := some s.input.peer, cid := s.input.cid } }).answerQuery id)
/-- COUNTER_QUERY_ANSWER: a peer's counter comes back to the arming `id`; `flag` where it counts as below V. -/
def execCounterQueryAnswer (s : State) : Host.Outcome State Fault Refusal :=
  .next (match tget? s.rearms s.input.id with
  | none => s
  | some r =>
    if !(r.wait.contains s.input.peer) || !s.peerUp s.input.peer then s else
    let low := r.low || s.input.flag || decide (s.input.value.toNat < r.v.toNat)
    let r := { r with wait := r.wait.filter (· != s.input.peer), low := low }
    ({ s with rearms := tset s.rearms s.input.id r }).armDecide s.input.id)
/-- COUNTER_QUERY_TIMEOUT: a peer that does not answer within 2^20 ticks counts as below V. -/
def State.queryLate (s : State) (id peer : Nat) : Bool :=
  match tget? s.rearms id with
  | some r => r.wait.contains peer && r.start + 2 ^ 20 ≤ s.dt
  | none => false
def execCounterQueryTimeout (rearm peer : Nat) (s : State) : Host.Outcome State Fault Refusal :=
  .next (if !s.queryLate rearm peer then s else
    ({ s with rearms := tmod s.rearms rearm fun r => { r with wait := r.wait.filter (· != peer), low := true } }).armDecide rearm)

/-! Contributions (19 R316, R317). -/

/-- Bytes held in an instance's reservation. -/
def Inst.heldBytes (i : Inst) : Nat :=
  ((i.entries.flatMap fun e => e.2.contribs.map fun c => c.2.data.length)).foldl (· + ·) 0
/-- The place in SRCDEV that a sender's contribution takes, if one is free. -/
def CEntry.placeOf (x : CEntry) (sender : Nat) : Option Nat :=
  (List.range x.senders.length).find? fun j => x.senders.getD j 0 == sender && (tget? x.contribs j).isNone
/-- 19 R317: a contribution that an instance takes, or a protocol error. -/
def State.takeContribution (s : State) (k : Nat) (i : Inst) (c : Contribution) : State :=
  let x := tget i.entries c.entry {}
  match x.placeOf c.sender with
  | some j =>
    if c.data.length == x.len && (x.st == .armed || x.st == .fired) then
      s.modEntry k c.entry fun x => { x with contribs := tset x.contribs j c, ready := s.dt }
    else ((s.instFault i 23 kPoison i.table c.entry).modEntry k c.entry fun x => { x with proto := true }).collEvent i 5 c.entry
  | none => ((s.instFault i 23 kPoison i.table c.entry).modEntry k c.entry fun x => { x with proto := true }).collEvent i 5 c.entry
/-- The instance that has room for a contribution. -/
def State.receiver (s : State) (c : Contribution) : Option (Nat × Inst) :=
  s.insts.find? fun x => x.2.active && x.2.collid == c.collid && x.2.heldBytes + c.data.length ≤ x.2.stg
/-- A contribution for this device is offered to the instance that it is for: none where its sender goes on holding it. -/
def State.offerTo (s : State) (c : Contribution) : Option State := (s.receiver c).map fun (k, i) => s.takeContribution k i c
/-- The contributions that their senders hold are offered again, this device's own once they have passed the quarantine (25 R385) and
over links that are usable; whether a peer takes one is its own state (log 102). -/
def State.offerAll (s : State) : State :=
  let due := s.sending.filter fun x => x.dt + Config.quarantine ≤ s.dt && (x.peer == s.devno || s.peerUp x.peer)
  let s := overAll due (fun s x =>
    if x.peer == s.devno then
      match s.offerTo x.msg with
      | some t => { t with sending := t.sending.erase x }
      | none => s
    else
      let (n, s) := s.draw
      if Config.peerTakes n then
        { s with sending := s.sending.erase x, outbox := s.outbox ++ [.contribution x.peer (s.endpoint x.ctx x.peer) x.msg.entry x.msg] }
      else s) s
  overAll s.msgs (fun s c => match s.offerTo c with
    | some t => { t with msgs := t.msgs.erase c }
    | none => s) s
/-- COLLECTIVE_CONTRIBUTION: a contribution reaches the device, over its sender's link. -/
def execCollectiveContribution (s : State) : Host.Outcome State Fault Refusal :=
  .next (if !s.peerUp s.input.msg.sender then s else ({ s with msgs := s.msgs ++ [s.input.msg] } : State).offerAll)

/-! The run of an entry (19 R316, R318). -/

/-- 19 R316: op(x, y) on codes of a format. -/
def collOp (op : Nat) (g : Fmt) (x y : Nat) : Nat :=
  match op, g with
  | 0, _ => y
  | 4, _ => x ||| y
  | 1, .int32 | 1, .uint32 => (x + y) % 2 ^ 32
  | 1, _ => (rnd (Num.add false (val g x) (val g y)) g 0 false 0).code
  | 2, .int32 => if sext y 32 < sext x 32 then y else x
  | 2, .uint32 => min x y
  | 2, _ => fminmax g false x y
  | _, .int32 => if sext x 32 < sext y 32 then y else x
  | _, .uint32 => max x y
  | _, _ => fminmax g true x y

/-- Elements of some bytes: codes, and whether a byte of each is poisoned. -/
def elements (w : Nat) (l : List (Byte × Bool)) : List (Nat × Bool) :=
  (List.range (l.length / w)).map fun n =>
    let x := (l.drop (n * w)).take w
    (leNat (x.map (·.1)), x.any (·.2))
/-- The bytes of elements; a poisoned element's bytes are 0. -/
def elementBytes (w : Nat) (l : List (Nat × Bool)) : List (Byte × Bool) :=
  l.flatMap fun (x, p) => (leBytes w (if p then 0 else x)).map fun b => (b, p)
/-- 19 R316: v after the contributions of a list. -/
def combine (op : Nat) (g : Fmt) : List (List (Nat × Bool)) → List (Nat × Bool)
  | [] => []
  | v :: r => r.foldl (fun v c => (v.zip c).map fun (x, y) => (collOp op g x.1 y.1, x.2 || y.2)) v
/-- A contribution's bytes with the poison of their words. -/
def contribBytes (c : Contribution) : List (Byte × Bool) := c.data.zipIdx.map fun (b, k) => (b, c.poison.contains (k / 4))

/-- The first page of some bytes whose access meets a park cause, those that are failed apart. -/
def State.firstPark (s : State) (i : Inst) (va n : Nat) (p : Perm) (fails : List Nat) : Option (Nat × Nat) :=
  ((pageParts va n).filter fun x => !fails.contains x.1).findSome? fun (a, m) =>
    match s.xlateDie i.die i.ctx a p with
    | .ok key r => if p == .read && r && s.anyMarked key m then some (10, a) else none
    | x => if isParkCause x.cause then some (x.cause, a) else none
/-- 12 R217: may the local operand be read now? -/
def State.operandClear (s : State) (i : Inst) (x : CEntry) : Bool :=
  x.laddr == 0 || ((pageParts x.laddr x.len).filter fun p => !(x.failed false).contains p.1).all fun (a, m) =>
    match s.xlateDie i.die i.ctx a .read with
    | .ok key _ => s.linkUp key && s.clearRead (collSrc i.die) key m
    | _ => true
/-- 19 R318: read the local operand; a poison cause makes its bytes poison and is recorded, as is cause 24 of a failed part. -/
def State.localOperand (s : State) (i : Inst) (va n : Nat) (fails : List Nat) : List (Byte × Bool) × State :=
  (pageParts va n).foldl (fun (l, s) (a, m) =>
    let lost (c d : Nat) : List (Byte × Bool) × State := (l ++ List.replicate m (0, true), s.instFault i c kPoison a d)
    if fails.contains a then lost 24 0 else
    match s.xlateDie i.die i.ctx a .read with
    | .ok key _ =>
      let held (k : Nat) : Bool := (s.line ((key + k) / 128)).acc.isSome
      let bad := (List.range m).map fun k => s.marked (key + k) || held k
      let s := if bad.contains true then s.instFault i (if (List.range m).any held then 16 else 17) kPoison a 0 else s
      (l ++ (s.bytes key m).zip bad, s)
    | x => lost x.cause x.detail) ([], s)
/-- 19 R316: write the result as engine writes, one for each line; a part that is failed is discarded with cause 24. -/
def State.localResult (s : State) (k e : Nat) (i : Inst) (va : Nat) (v : List (Byte × Bool)) (fails : List Nat) : State :=
  overAll (pageParts va v.length) (fun s (a, m) =>
    if fails.contains a then s.instFault i 24 kPoison a 0 else
    match s.xlateDie i.die i.ctx a .write with
    | .ok key _ =>
      let lines := (List.range ((key + m + 127) / 128 - key / 128)).map fun j =>
        let x := max key (128 * (key / 128 + j))
        (x, min (key + m) (128 * (key / 128 + j) + 128) - x)
      overAll lines (fun s (x, c) =>
        let l := (v.drop (a - va + (x - key))).take c
        s.engineWrite { src := collSrc i.die, kind := .engine, ctx := i.ctx, tenant := i.tenant, va := a + (x - key), key := x, width := c,
                        data := l.map (·.1), pois := wordMarks x (l.map (·.2)), owner := .entry k e false, who := s.instWho i }) s
    | x => s.instFault i x.cause kPoison a x.detail) s

/-- 19 R316, R317: deliver the result: its sender holds it until the instance that it is for takes it. -/
def State.sendResult (s : State) (i : Inst) (x : CEntry) (v : List (Byte × Bool)) : State :=
  let c : Contribution := { collid := i.collid, entry := x.pidx, sender := s.devno, data := v.map (·.1), cid := x.cid,
                            poison := (List.range (v.length / 4)).filter fun w => ((v.drop (4 * w)).take 4).any (·.2) }
  { s with sending := s.sending ++ [{ dt := s.dt, die := i.die, ctx := i.ctx, peer := x.peer, msg := c }] }

/-- Is an entry's every contribution in staging? -/
def CEntry.complete (x : CEntry) : Bool := (List.range x.senders.length).all fun j => (tget? x.contribs j).isSome
/-- COLLECTIVE_ENTRY_RUN: an entry that has fired, whose contributions are in staging, and whose local operand may be read. Its result
leaves after the quarantine (25 R385). -/
def State.runDue (s : State) (k e : Nat) : Bool :=
  match s.inst k, s.centry k e with
  | some i, some x => i.active && x.st == .fired && x.held.isNone && x.complete && s.operandClear i x && s.roomAt (collSrc i.die)
  | _, _ => false
/-- The park cause that an entry meets before it runs: of its operand, or of its result. -/
def State.runPark (s : State) (i : Inst) (x : CEntry) : Option (Nat × Nat × Bool) :=
  match if x.laddr ≠ 0 then s.firstPark i x.laddr x.len .read (x.failed false) else none with
  | some (c, va) => some (c, va, false)
  | none => (if x.write then s.firstPark i x.daddr x.len .write (x.failed true) else none).map fun (c, va) => (c, va, true)
def execCollectiveEntryRun (inst e : Nat) (s : State) : Host.Outcome State Fault Refusal :=
  .next (if !s.runDue inst e then s else
    match s.inst inst, s.centry inst e with
    | some i, some x =>
      match s.runPark i x with
      | some (c, va, write) => s.holdEntryAt inst e c va write i
      | none =>
        let g := (collFmt x.fmt).getD .f32
        let w := g.width / 8
        let (own, s) := if x.laddr ≠ 0 then s.localOperand i x.laddr x.len (x.failed false) else ([], s)
        let parts := (if x.laddr ≠ 0 then [own] else []) ++ x.contribs.map fun c => contribBytes c.2
        let v := elementBytes w (combine x.op g (parts.map (elements w)))
        let v := if x.proto then v.map fun _ => (0, true) else v
        let s := s.modEntry inst e fun x => { x with st := .writing, contribs := [], fails := [], ranAt := s.dt, used := x.contribs }
        let s := if x.write then s.localResult inst e i x.daddr v (x.failed true) else s
        if x.send then s.sendResult i x v else s
    | _, _ => s)

/-- 19 R318, R319: the end of the card of an instance, once every write of it is acknowledged (07 R141). -/
def State.instCard (s : State) (k : Nat) : State :=
  match s.inst k with
  | none => s
  | some i =>
    if s.accs.any fun a => match a.2.owner with | .entry j _ _ => j == k | _ => false then s else
    let failed := (i.entries.filter fun e => e.2.proto || e.2.st == .failed).length
    let s := s.modInst k fun i => { i with aborted := false }
    match i.card with
    | some c => (s.modCard c fun c => { c with failed := failed }).cardFinish c .ended (if failed == 0 then 0 else 2)
    | none => s
/-- An instance all of whose entries are done: its event, its card (19 R318). -/
def State.instEnd (s : State) (k : Nat) : State :=
  match s.inst k with
  | none => s
  | some i => ((s.modInst k fun i => { i with active := false }).collEvent i 0 0).instCard k

/-- 19 R317; 29 R425: does the sender still hold an entry's result? -/
def State.undelivered (s : State) (x : CEntry) : Bool := x.send && s.sending.any fun c => c.msg.cid == x.cid
/-- 19 R316: an entry whose writes are acknowledged and whose result is delivered adds 1 to the counter; one whose add is acknowledged
is done. -/
def State.entryStep (s : State) (k e : Nat) : State :=
  match s.inst k, s.centry k e with
  | some i, some x =>
    let busy (counter : Bool) : Bool := s.accs.any fun a => a.2.owner == .entry k e counter
    if x.held.isSome then s else
    if x.st == .writing && !busy false && !s.undelivered x then
      let counting (s : State) : State := s.modEntry k e fun x => { x with st := .counting, fails := [] }
      if (x.failed true).contains i.cnt then counting (s.instFault i 24 kPoison i.cnt 0) else
      match s.xlateDie i.die i.ctx i.cnt .write with
      | .ok _ _ => counting (s.countUp (collSrc i.die) i.ctx i.tenant i.cnt (s.instWho i) (.entry k e true))
      | y => if isParkCause y.cause then s.holdEntryAt k e y.cause i.cnt true i else counting (s.instFault i y.cause kPoison i.cnt y.detail)
    else if x.st == .counting && !busy true then
      let s := (s.modEntry k e fun x => { x with st := .done }).entryNote 11 e i x.cid
      match s.inst k with
      | some i => if i.active && i.entries.all fun e => e.2.st == .done then s.instEnd k else s
      | none => s
    else s
  | _, _ => s

/-- What the engines do after every step: flags, held contributions, armings and queries that wait for a line, entries on their way, cards
of aborted instances. -/
def State.collWork (s : State) : State :=
  let s := s.flagsTest.offerAll
  let s := overAll (tkeys s.rearms) (fun s id => match tget? s.rearms id with
    | some r => if r.asker.isSome then s.answerQuery id else s.armOn id
    | none => s) s
  let s := overAll (s.insts.filter (·.2.aborted)).unzip.1 (fun s k => s.instCard k) s
  overAll (s.insts.flatMap fun (k, i) => if i.active then (tkeys i.entries).map fun e => (k, e) else [])
    (fun s x => s.entryStep x.1 x.2) s

/-! Watchdogs and abort (19 R319). -/

/-- 27 R404: the PARTY of a wait on a peer's collective engine, or on the engine of a die of this device. -/
def State.collParty (s : State) (die peer : Nat) (collid : Word) : Nat :=
  peer * 2 ^ 48 + (if peer == s.devno then collSrc die else 516) * 2 ^ 38 + collid.toNat
/-- The first late participant of a fired entry: a sender, or the device itself. -/
def CEntry.late (x : CEntry) (devno : Nat) : Nat :=
  match (List.range x.senders.length).find? fun j => (tget? x.contribs j).isNone with
  | some j => if x.st == .fired then x.senders.getD j devno else devno
  | none => devno
/-- 27 R404; 28 R416: the wait-for record of an entry. -/
def State.entryRec (s : State) (e : Nat) (i : Inst) (x : CEntry) : Rec :=
  i.record { typ := 1, b0 := 9 + 65536 * (e % 65536), dt := s.dt, f24 := if x.st == .armed then x.flag else 0,
             f32 := i.collid.toNat, f48 := if x.st == .armed then 0 else s.collParty i.die (x.late s.devno) i.collid }
def State.entryWait (s : State) (e : Nat) (i : Inst) (x : CEntry) : State := s.emit (collSrc i.die) (s.entryRec e i x)

/-- COLLECTIVE_TIMEOUT: an entry fired WDC ticks ago and not done, or armed as long and not fired; once. -/
def State.entryLate (s : State) (k e : Nat) : Bool :=
  match s.inst k, s.centry k e with
  | some i, some x => i.active && !x.timedOut && x.st != .done && x.st != .failed &&
      (if x.st == .armed then i.start else x.firedAt) + i.wdc ≤ s.dt
  | _, _ => false
def execCollectiveTimeout (inst e : Nat) (s : State) : Host.Outcome State Fault Refusal :=
  .next (if !s.entryLate inst e then s else
    match s.inst inst, s.centry inst e with
    | some i, some x =>
      let s := s.modEntry inst e fun x => { x with timedOut := true }
      let s := s.entryWait e i x
      let addr := if x.st == .armed then x.flag else s.collParty i.die (x.late s.devno) i.collid
      (s.instFault i 61 kEvent addr e).collEvent i 4 e
    | _, _ => s)

/-- COLLECTIVE_ABORT (19 R319): the entries of an instance that are not done fail; each is recorded as a failed item (23 R373; log 100).
The card ends once the writes on their way are acknowledged (07 R141). -/
def execCollectiveAbort (s : State) : Host.Outcome State Fault Refusal :=
  .next (match s.inst s.input.id with
  | none => s
  | some i =>
    if !i.active then s else
    let open_ := i.entries.filter fun e => e.2.st != .done
    let s := overAll open_ (fun s (e, _) => s.instFault i 61 kFail i.table e) s
    s.modInst s.input.id fun i => { i with active := false, aborted := i.card.isSome, entries := i.entries.map fun (e, x) =>
      (e, if x.st == .done then x else { x with st := .failed, contribs := [], held := none }) })

end Sys2Proof.Machine
end

