-- ==== Sys2Proof/Machine/Control.lean ====
section
/-! DEFINITION. Class K: branches, calls, returns, exit, traps and the regang hint (13 R219-R232). -/

namespace Sys2Proof.Machine

/-- A return whose link record is parked waits, with the other threads of its integer (01 R37; 13 R224; log 12). -/
def State.waitReturn (s : State) (i : Issue) (tret : Bool) (all gs : List (Nat × Going)) : State :=
  let ts := all.map (·.1)
  let held := (gs.filter fun x => x.2 == .again).map (·.1)
  if held.isEmpty then s else
  overAll ts (fun s t => s.setMoved i.tk i.g t) (s.modGroup i.tk i.g fun m => { m with
    returns := m.returns ++ [{ issue := { i with cand := ts, live := gs.map (·.1) }, tret := tret, held := held }] })
/-- 13 R224: carry out the transfers of threads; in a bound group the threads of an integer go one way, or take the
limb-divergence trap. -/
def State.transfer (s : State) (i : Issue) (gs : List (Nat × Going)) (tret : Bool := false) : State :=
  match s.group i.tk i.g with
  | none => s
  | some m =>
    match m.limbs with
    | none =>
      let again := gs.filter fun x => x.2 == .again
      overAll gs (fun s x => s.go i.tk i.g x.1 i.pc x.2) (s.waitReturn i tret again again)
    | some _ =>
      let killOf (x : Nat × Going) := match x.2 with | .kill c a d => some (x.1, c, a, d) | _ => none
      let isTrap (x : Nat × Going) := match x.2 with | .trap _ => true | _ => false
      overAll ((gs.map fun x => m.integer x.1).eraseDups) (fun s ts =>
        let mine := gs.filter fun x => x.1 ∈ ts
        let live := ts.filter fun t => (m.thread t).live
        let all := live.map fun t => (t, ((mine.find? (·.1 == t)).map (·.2)).getD .next)
        let kills := mine.filterMap killOf
        let traps := mine.filter isTrap
        if !kills.isEmpty then
          s.killEach i.tk i.g i.pc kills
        else if mine.any fun x => x.2 == .again then s.waitReturn i tret all mine
        else if !traps.isEmpty then
          s.trapAll i.tk i.g (traps.map (·.1)) fun t =>
            match traps.find? (·.1 == t) with | some (_, .trap x) => x | _ => i.trap 42
        else if 1 < (all.map fun x => x.2.tuple (m.thread x.1) i.next).eraseDups.length then
          s.trapAll i.tk i.g live fun t =>
            { i.trap 42 with xdet := clean (wn (t / (ts.length.max 1))), detail := t / (ts.length.max 1) }
        else overAll mine (fun s x => s.go i.tk i.g x.1 i.pc x.2) s) s

/-- 13 R220: an aligned address in range, or the control-target trap. -/
def Issue.target (i : Issue) (x : Nat) (go : Nat → Going) : Going :=
  if x % 4 ≠ 0 || 2 ^ 56 ≤ x then .trap { i.trap 33 with xaddr := x, addr := x } else go x

/-- 13 R222: a call, or the trap that forbids it. -/
def State.callGoing (s : State) (i : Issue) (t x code : Nat) : Going :=
  match s.group i.tk i.g with
  | none => .next
  | some m => match callFails m (m.thread t) (8 * code) with
    | some c => .trap (i.trap c)
    | none => .call x i.next code

/-- 13 R220, R221: the transfers of F-B: `lead` takes the condition of the lowest participating thread. -/
def State.branch (s : State) (f : FB) (lead : Bool) (target : Issue → Nat → PDword) (go : State → Issue → Nat → Nat → Going) :
    State :=
  let (s, ps) := s.parts none
  match s.cur with
  | none => s
  | some i =>
    let cond (t : Nat) : PBool := ((s.thread i.tk i.g t).getD {}).predN f.i.toNat f.n
    let gs := ps.map fun t =>
      let c := cond (if lead then ps.headD t else t)
      (t, if c.poison then Going.kill 26 0 0 else if !c.val then .next else
        let x := target i t
        if x.poison then .kill 25 0 0 else i.target x.val.toNat (go s i t))
    (s.transfer i gs).shiftEmpty

/-- 05 R87: the PC-relative target. -/
def relTarget (f : FB) (i : Issue) : PDword :=
  let off : Int := match f.ext with
    | none => f.off.toInt
    | some x => sext (x.imm.toNat * 2 ^ 16 + f.off.toNat) 33
  { val := BitVec.ofInt 64 ((i.pc : Int) + 4 * off), poison := false }
/-- 05 R87: the target held in a pair. -/
def State.regTarget (s : State) (f : FB) (i : Issue) (t : Nat) : PDword := s.pair i t (f.off.toNat / 256)

def execBra (f : FB) (s : State) : Host.Outcome State Fault Refusal :=
  .next (s.branch f false (fun i _ => relTarget f i) fun _ _ _ x => .to x)
def execBraLead (f : FB) (s : State) : Host.Outcome State Fault Refusal :=
  .next (s.branch f true (fun i _ => relTarget f i) fun _ _ _ x => .to x)
def execCall (f : FB) (s : State) : Host.Outcome State Fault Refusal :=
  .next (s.branch f false (fun i _ => relTarget f i) fun s i t x => s.callGoing i t x f.frame.toNat)
def execCallr (f : FB) (s : State) : Host.Outcome State Fault Refusal :=
  .next (s.branch f false (fun i t => s.regTarget f i t) fun s i t x => s.callGoing i t x f.frame.toNat)
def execBrar (f : FB) (s : State) : Host.Outcome State Fault Refusal :=
  .next (s.branch f false (fun i t => s.regTarget f i t) fun _ _ _ x => .to x)

/-- 13 R223: where `ret` takes a thread. -/
def State.retGoing (s : State) (i : Issue) (t : Nat) : Going × State :=
  match s.thread i.tk i.g t with
  | none => (.next, s)
  | some th =>
    if th.cd == 0 then (.trap (i.trap 34), s) else
    match s.getLink i.tk i.g t th.cd with
    | (none, s) => (.again, s)
    | (some r, s) =>
      (if r.poison then .kill 25 0 0 else if linkTrap r.val then .trap (i.trap 34)
       else .ret (linkRpc r.val) (linkCode r.val), s)

/-- The transfers of a list of threads, one after another. -/
def State.goings (s : State) (ps : List Nat) (go : State → Nat → Going × State) : List (Nat × Going) × State :=
  ps.foldl (fun (gs, s) t => let (x, s) := go s t; (gs ++ [(t, x)], s)) ([], s)

def execRet (f : FR) (s : State) : Host.Outcome State Fault Refusal :=
  let (s, ps) := s.parts f.ext
  .next (match s.cur with
  | none => s
  | some i =>
    let (gs, s) := s.goings ps fun s t => s.retGoing i t
    (s.transfer i gs).shiftEmpty)

/-- 13 R225, 17 R287: exit; in a bound group an integer exits whole or takes the limb-divergence trap. -/
def execExit (f : FR) (s : State) : Host.Outcome State Fault Refusal :=
  let (s, ps) := s.parts f.ext
  .next (match s.cur with
  | none => s
  | some i =>
    match s.group i.tk i.g with
    | none => s
    | some m =>
      let stays (t : Nat) : Bool := (m.integer t).any fun u => (m.thread u).live && !(u ∈ ps)
      let bad := ps.filter stays
      let s := overAll (ps.filter fun t => !stays t) (fun s t => s.leave i.tk i.g t) s
      let ts := (bad.flatMap m.integer).eraseDups.filter fun u => (m.thread u).live
      let l := (m.limbs.getD 1).max 1
      (s.trapAll i.tk i.g ts fun t => { i.trap 42 with xdet := clean (wn (t / l)), detail := t / l }).shiftEmpty)

/-- 13 R231: a trap after every word of the clause, with its operand in XDET. -/
def State.trapAfter (s : State) (f : FR) (cause : Nat) : State :=
  let (s, ps) := s.parts f.ext
  match s.cur with
  | none => s
  | some i =>
    let xs := ps.map fun t => (t, s.src i kInt t f.a.toNat)
    let mates (t : Nat) : List Nat := match s.group i.tk i.g with | some m => m.integer t | none => []
    (s.modCur fun i => { i with
      after := xs.foldl (fun m x => if (mates x.1).any (fun u => (tget? m u).any fun y => u == x.1 || y.1 ≠ cause) then m
        else tset m x.1 (cause, 0, x.2, 0)) i.after }).shiftEmpty
def execTrap (f : FR) (s : State) : Host.Outcome State Fault Refusal := .next (s.trapAfter f 45)
def execBrk (f : FR) (s : State) : Host.Outcome State Fault Refusal := .next (s.trapAfter f 46)

def execTret (f : FR) (s : State) : Host.Outcome State Fault Refusal :=
  let (s, ps) := s.parts f.ext
  .next (match s.cur with
  | none => s
  | some i =>
    let (gs, s) := s.goings ps fun s t => s.tretGoing i.tk i.g t
    (s.transfer i gs true).shiftEmpty)

/-- A park is resolved: the returns that it held are made; under `fail` their reads meet cause 24 (23 R366). -/
def State.returnAgain (s : State) (tk g : Nat) (fail : Bool) : State :=
  match s.group tk g with
  | none => s
  | some m =>
    let s := s.modGroup tk g fun x => { x with returns := [] }
    overAll m.returns (fun s r =>
      let left (t : Nat) : Bool := !((s.thread tk g t).getD { st := .exited }).exited
      let i : Issue := { r.issue with tk := tk, cand := r.issue.cand.filter left, live := r.issue.live.filter left }
      let s := if !fail then s else overAll (r.held.filter left) (fun s t =>
        let a := linkAddr m.linkBase (m.thread t).cd t
        (s.fault tk g [t] 24 kPoison a i.pc 0).setLost tk g t a true) s
      let s := overAll (i.cand.filter (!i.live.contains ·)) (fun s t => s.modThread tk g t fun th => { th with pc := i.next }) s
      let (gs, s) := s.goings i.live fun s t => if r.tret then s.tretGoing tk g t else s.retGoing i t
      s.transfer i gs r.tret) s

/-- 13 R226: a regang hold at the next boundary, with the largest bound. With several words in a clause the model takes the latest DT + Q,
each DT that of its own word: R226 does not say from which one the largest Q counts (log 126). -/
def execRegang (f : FR) (s : State) : Host.Outcome State Fault Refusal :=
  let (s, ps) := s.parts f.ext
  .next (match s.cur with
  | none => s
  | some i =>
    let hold (t : Nat) : Nat := let x := s.src i kInt t f.a.toNat; if x.poison then 0 else 16 * (x.val.toNat % 2 ^ 16)
    let hs := ps.filter fun t => hold t ≠ 0
    (s.modCur fun i => { i with
      regang := hs.foldl (fun m t => tset m t (max (tget m t 0) (s.dt + hold t))) i.regang }).shiftEmpty)

end Sys2Proof.Machine
end

