-- ==== Sys2Proof/Machine/Limb.lean ====
section
/-! DEFINITION. Class C: long integers on the limb chain (17 R282-R299; 18 R300). -/

namespace Sys2Proof.Machine

/-- 17 R295: the limb-binding trap with its subcode. -/
def State.bindTrap (s : State) (i : Issue) (ps : List Nat) (sub : Nat) : State := s.subTrap i ps 43 sub

def execLbind (f : FR) (s : State) : Host.Outcome State Fault Refusal :=
  let (s, ps) := s.parts f.ext
  .next (match s.cur with
  | none => s
  | some i =>
    match s.group i.tk i.g with
    | none => s
    | some m =>
      (if ps.isEmpty then s
       else if m.limbs.isSome then s.bindTrap i ps 0
       else if !(List.range 32).all fun t => t ∈ ps && t ∈ i.cand && (m.thread t).live then s.bindTrap i ps 1
       else s.modGroup i.tk i.g fun m => { m with limbs := some (2 ^ (immOf f.ext % 8)), cf := [], cw := [] }).shiftEmpty)

def execLunbind (f : FR) (s : State) : Host.Outcome State Fault Refusal :=
  let (s, ps) := s.parts f.ext
  .next (match s.cur with
  | none => s
  | some i =>
    match s.group i.tk i.g with
    | none => s
    | some m =>
      (if ps.isEmpty then s
       else if m.limbs.isNone then s.bindTrap i ps 2
       else if !m.liveThreads.all (· ∈ ps) then s.bindTrap i ps 1
       else s.modGroup i.tk i.g fun m => { m with limbs := none, cf := [], cw := [] }).shiftEmpty)

/-- A participating integer: its number, limb count and threads, lowest limb first. -/
structure LimbInt where
  m : Nat
  l : Nat
  ts : List Nat
deriving DecidableEq, Repr

/-- 17 R286, R295, R299: the participating integers of a class C word, after its binding and divergence traps. -/
def State.limbInts (s : State) (f : FR) : State × List LimbInt :=
  let (s, ps) := s.parts f.ext
  match s.cur with
  | none => (s, [])
  | some i =>
    match s.group i.tk i.g with
    | none => (s, [])
    | some gr =>
      match gr.limbs with
      | none => (if ps.isEmpty then s else s.bindTrap i ps 2, [])
      | some l =>
        let ints : List LimbInt := (List.range (32 / l)).map fun m => { m := m, l := l, ts := (List.range l).map (l * m + ·) }
        let mine := ints.filter fun x => x.ts.any (· ∈ ps)
        let split (x : LimbInt) : Bool := x.ts.any fun t => t ∈ i.live && !(t ∈ ps)
        let bad := (mine.filter split).flatMap (·.ts)
        let s := s.trapAll i.tk i.g (bad.filter fun t => (gr.thread t).live) fun t =>
          { i.trap 42 with xdet := clean (wn (t / l)), detail := t / l }
        (s, mine.filter fun x => !split x)

/-- 17 R285: an integer operand, and whether a limb of it is poisoned. -/
def State.limbSrc (s : State) (i : Issue) (x : LimbInt) (c : Nat) : Nat × Bool :=
  if perThread c then
    let ws := x.ts.map fun t => s.src i kInt t c
    (ws.foldr (fun w n => w.val.toNat + 2 ^ 32 * n) 0, ws.any (·.poison))
  else if 192 ≤ c then ((((c : Int) - 224) % ((2 ^ (32 * x.l) : Nat) : Int)).toNat, false)
  else let w := s.src i kInt (x.ts.headD 0) c; (w.val.toNat, w.poison)
/-- 17 R285: a count or word, read in one thread of the integer. -/
def State.limbOne (s : State) (i : Issue) (x : LimbInt) (c k : Nat) : Nat × Bool :=
  let w := s.src i kInt (x.ts.getD k 0) c
  (w.val.toNat, w.poison)
/-- The limbs of a value for the threads of an integer; poison in every limb (17 R293). -/
def LimbInt.limbs (x : LimbInt) (v : Nat) (p : Bool) : List (Nat × List PWord) :=
  x.ts.zipIdx.map fun (t, k) => (t, [pw (wn (v / 2 ^ (32 * k))) p])

/-- What a chained operation gives: the integer, and CF and CW where it writes them. -/
structure Chained where
  d : Nat
  cf : Option Bool := none
  cw : Option Nat := none
  poison : Bool := false
deriving DecidableEq, Repr

/-- The mould of chained operations (17 R288-R293): sources are read before any result is written. -/
def State.chain (s : State) (f : FR) (op : State → Issue → Group → LimbInt → Chained) : State :=
  let (s, xs) := s.limbInts f
  match s.cur with
  | none => s
  | some i =>
    match s.group i.tk i.g with
    | none => s
    | some gr =>
      let rs := xs.map fun x => (x, op s i gr x)
      let s := s.modGroup i.tk i.g fun m => rs.foldl (fun m (x, r) =>
        let m := match r.cf with | some b => { m with cf := tset m.cf x.m { val := b && !r.poison, poison := r.poison } } | none => m
        match r.cw with | some w => { m with cw := tset m.cw x.m (pw (wn w) r.poison) } | none => m) m
      s.finish i f.w f.d.toNat (rs.flatMap fun (x, r) => x.limbs r.d r.poison)

/-- 2^(32 L). -/
def LimbInt.size (x : LimbInt) : Nat := 2 ^ (32 * x.l)
def Group.carry (m : Group) (n : Nat) : PBool := tget m.cf n { val := false, poison := false }
def Group.carryWord (m : Group) (n : Nat) : PWord := tget m.cw n (clean 0)

/-- 17 R288: a sum or difference as an exact integer, with the carry it reads. -/
def State.chainAdd (s : State) (f : FR) (usesCf : Bool) (y : Int → Int → Int → Int) (cf : Int → Nat → Nat → Bool) : State :=
  s.chain f fun s i gr x =>
    let (a, pa) := s.limbSrc i x f.a.toNat
    let (b, pb) := s.limbSrc i x f.b.toNat
    let c := gr.carry x.m
    let v := y a b (if c.val then 1 else 0)
    { d := (v % (x.size : Int)).toNat, cf := some (cf v x.size a), poison := pa || pb || (usesCf && c.poison) }
def execLadd (f : FR) (s : State) : Host.Outcome State Fault Refusal :=
  .next (s.chainAdd f false (fun a b _ => a + b) fun v n _ => (n : Int) ≤ v)
def execLaddc (f : FR) (s : State) : Host.Outcome State Fault Refusal :=
  .next (s.chainAdd f true (fun a b c => a + b + c) fun v n _ => (n : Int) ≤ v)
def execLsub (f : FR) (s : State) : Host.Outcome State Fault Refusal :=
  .next (s.chainAdd f false (fun a b _ => a - b) fun v _ _ => v < 0)
def execLsubb (f : FR) (s : State) : Host.Outcome State Fault Refusal :=
  .next (s.chainAdd f true (fun a b c => a - b - c) fun v _ _ => v < 0)
def execLneg (f : FR) (s : State) : Host.Outcome State Fault Refusal :=
  .next (s.chain f fun s i _ x =>
    let (a, pa) := s.limbSrc i x f.a.toNat
    { d := ((-(a : Int)) % (x.size : Int)).toNat, cf := some (a ≠ 0), poison := pa })

def execLcmp (f : FR) (s : State) : Host.Outcome State Fault Refusal :=
  let (s, xs) := s.limbInts f
  .next (match s.cur with
  | none => s
  | some i =>
    let im := immOf f.ext
    let res := xs.map fun x =>
      let (a, pa) := s.limbSrc i x f.a.toNat
      let (b, pb) := s.limbSrc i x f.b.toNat
      let n := 32 * x.l
      let v : Int := if im.testBit 4 then a else sext a n
      let w : Int := if im.testBit 4 then b else sext b n
      let r : Bool := match im % 8 with
        | 0 => v == w | 1 => v != w | 2 => v < w | 3 => v ≤ w | 4 => w < v | _ => w ≤ v
      (x, ({ val := r && !(pa || pb), poison := pa || pb } : PBool))
    (overAll res (fun s (x, r) => overAll x.ts (fun s t =>
      s.modThread i.tk i.g t fun th => th.setPred f.d.toNat r) s) s).shiftEmpty)

/-! Shifts (17 R289). -/

def execLshl (f : FR) (s : State) : Host.Outcome State Fault Refusal :=
  .next (s.chain f fun s i _ x =>
    let (a, pa) := s.limbSrc i x f.a.toNat
    let (c, pc) := s.limbOne i x f.b.toNat 0
    let y := a * 2 ^ (c % 2048)
    { d := y % x.size, cf := some (y / x.size ≠ 0), poison := pa || pc })
def execLshr (f : FR) (s : State) : Host.Outcome State Fault Refusal :=
  .next (s.chain f fun s i _ x =>
    let (a, pa) := s.limbSrc i x f.a.toNat
    let (c, pc) := s.limbOne i x f.b.toNat 0
    let n := c % 2048
    let d := if (immOf f.ext).testBit 0 then ((sext a (32 * x.l) / ((2 ^ n : Nat) : Int)) % (x.size : Int)).toNat else a / 2 ^ n
    { d := d, poison := pa || pc })
/-- 17 R284: words shifted, and the fill. -/
def limbWords (f : FR) : Nat := field (immOf f.ext) 4 6
def limbFill (f : FR) : Nat := immOf f.ext % 4
def execLshlw (f : FR) (s : State) : Host.Outcome State Fault Refusal :=
  .next (s.chain f fun s i _ x =>
    let (a, pa) := s.limbSrc i x f.a.toNat
    let n := limbWords f
    let (b, pb) := if limbFill f == 1 then s.limbSrc i x f.b.toNat else (0, false)
    let y := a * 2 ^ (32 * n)
    let low := if n ≤ x.l then b / 2 ^ (32 * (x.l - n)) else b * 2 ^ (32 * (n - x.l))
    { d := (y + low) % x.size, cf := some (y / x.size ≠ 0), poison := pa || pb })
def execLshrw (f : FR) (s : State) : Host.Outcome State Fault Refusal :=
  .next (s.chain f fun s i gr x =>
    let (a, pa) := s.limbSrc i x f.a.toNat
    let (b, pb) : Nat × Bool := match limbFill f with
      | 1 => s.limbSrc i x f.b.toNat
      | 2 => let w := gr.carryWord x.m; (w.val.toNat, w.poison)
      | 3 => (if a.testBit (32 * x.l - 1) then x.size - 1 else 0, false)
      | _ => (0, false)
    { d := ((b * x.size + a) / 2 ^ (32 * limbWords f)) % x.size, poison := pa || pb })

/-! Rows of products, normal form, overflow mask (17 R290-R292). -/

/-- CW the whole excess, CF whether CW is anything but 0. An excess of 2^32, which `lnorm` can have, does not fit CW (log 47). -/
def LimbInt.wide (x : LimbInt) (y : Nat) (p : Bool) : Chained :=
  let w : Word := if y / x.size < 2 ^ 32 then wn (y / x.size) else Config.excessWord y
  { d := y % x.size, cw := some w.toNat, cf := some (w ≠ 0), poison := p }
def execLmac (f : FR) (s : State) : Host.Outcome State Fault Refusal :=
  .next (s.chain f fun s i _ x =>
    let im := immOf f.ext
    let (a, pa) := s.limbSrc i x f.a.toNat
    let (w, pb) := s.limbOne i x f.b.toNat (im % 32 % x.l)
    let (d, pd) := if im.testBit 5 then (0, false) else s.limbSrc i x f.d.toNat
    x.wide (d + a * w) (pa || pb || pd))
def execLnorm (f : FR) (s : State) : Host.Outcome State Fault Refusal :=
  .next (s.chain f fun s i _ x =>
    let (a, pa) := s.limbSrc i x f.a.toNat
    let (b, pb) := s.limbSrc i x f.b.toNat
    x.wide (a + b * 2 ^ 32) (pa || pb))

def execLovf (f : FR) (s : State) : Host.Outcome State Fault Refusal :=
  let (s, xs) := s.limbInts f
  .next (match s.cur with
  | none => s
  | some i =>
    match s.group i.tk i.g with
    | none => s
    | some gr =>
      let l := (gr.limbs.getD 32).max 1
      let bit (m : Nat) : Bool :=
        let c := gr.carry m
        (List.range l).any (fun k => (gr.thread (l * m + k)).exited == false) &&
          (if (immOf f.ext).testBit 0 then c.poison else c.val && !c.poison)
      let v := wn (maskOf ((List.range (32 / l)).filter bit))
      s.finish i f.w f.d.toNat ((xs.flatMap (·.ts)).map fun t => (t, [clean v])))

/-! Limb-vector accesses (17 R296, R297; 18 R300). -/

/-- Accesses of the limbs of an integer, with the cause and detail each meets. -/
abbrev LimbAccs := List (Access × Nat × Nat)

/-- 17 R297: the limbs of an integer with their addresses: an address outside the range or a misaligned one is every limb's. Where a
limb meets a poison cause, what the others would meet at their slices is their cause (18 R300). The limbs of a store are written one by
one after that (log 113). -/
def State.limbClassify (s : State) (l : List (Access × Int)) : LimbAccs × State :=
  if l.any fun x => x.2 < 0 || (2 ^ 56 : Int) ≤ x.2 then (l.map fun x => (x.1, 13, 0), s)
  else if l.any fun x => x.2 % 4 ≠ 0 then (l.map fun x => (x.1, 15, 0), s)
  else
    let (r, s) := l.foldl (fun (r, s) (a, ea) =>
      let (c, d, a, s) := s.classify a ea
      (r ++ [(a, c, d)], s)) (([] : LimbAccs), s)
    let peek := r.map fun (a, c, d) => (a, if c == 0 then s.slicePeek a else c, d)
    let met := if l.any fun x => x.1.isStore then peek else r
    (if met.any (·.2.1 ≠ 0) && peek.any (fun x => x.2.1 ≠ 0 && !isParkCause x.2.1) then peek else r, s)

/-- `lld` and `lst`: each participating integer is decided whole. A limb that met a park cause in an integer that a poison cause decides is
recorded with its cause, KIND 1 and PARKID 0 (18 R300; log 119). -/
def State.limbMem (s : State) (f : FR) (load : Bool) : State :=
  let (s, xs) := s.limbInts f
  match s.cur with
  | none => s
  | some i =>
    if xs.isEmpty then s.shiftEmpty else
    let im := immOf f.ext
    let off : Int := 4 * sext (field im 5 12) 12
    let base (x : LimbInt) : PDword := s.pair i (x.ts.headD 0) f.a.toNat
    let ea (x : LimbInt) : Int :=
      (base x).val.toNat + off + (if f.a.toNat < 64 then 0 else 4 * ((x.l * x.m : Nat) : Int))
    let data (t : Nat) : PWord := if load then clean 0 else s.src i kInt t f.b.toNat
    let s := s.killAll i.tk i.g ((xs.filter fun x => (base x).poison).map (·.ts.headD 0)) 25 i.pc
    let xs := xs.filter fun x => !(base x).poison
    match s.team i.tk, s.cur with
    | some m, some j =>
      let (op, s) := s.newOp i f.ext (xs.flatMap (·.ts)) (if load && !f.w then [f.d.toNat] else []) 0
      let low := (xs.flatMap (·.ts)).headD 0
      let (sampled, s) := if xs.isEmpty then (false, s) else s.drawSample i.tk i.g low
      let s := overAll (xs.flatMap (·.ts)) (fun s t => s.modThread i.tk i.g t fun th => { th with smplNext := false }) s
      let acc (s : State) (x : LimbInt) (t : Nat) : Access :=
        let th := (s.thread i.tk i.g t).getD {}
        { src := coreOf i.tk, kind := if load then .load else .store, tk := i.tk, g := i.g, lanes := [t], clause := i.id,
          ctx := m.ctx, tenant := m.tenant, width := 4, data := if load then [] else leBytes 4 (data t).val.toNat,
          pois := if load then [] else [false], order := if load then field im 3 2 else 2 * field im 4 1, scope := im % 8,
          dst := if load && !f.w then some f.d.toNat else none, wb := th.wb, op := some op, pc := i.pc, dt := s.dt, born := s.dt,
          sampled := sampled && t == low, tag := th.smpltag, limb := some x.m }
      let one (s : State) (x : LimbInt) : State :=
        let (l, s) := s.limbClassify (x.ts.zipIdx.map fun (t, k) => (acc s x t, ea x + 4 * (k : Int)))
        let l := l.zipIdx.map fun (r, k) => ({ r.1 with va := ((ea x + 4 * (k : Int)) % 2 ^ 64).toNat }, r.2.1, r.2.2)
        let poisons := l.filter fun (_, c, _) => c ≠ 0 && !isParkCause c
        let record (s : State) : State := overAll (l.filter fun (_, c, _) => c ≠ 0)
          (fun s (a, c, d) => s.fault i.tk i.g a.lanes c kPoison a.va i.pc d) s
        if x.ts.any fun t => (data t).poison then
          (if poisons.isEmpty then s else record s).killAll i.tk i.g (x.ts.filter fun t => (data t).poison) 27 i.pc
            (addr := fun t => ((ea x + 4 * ((t % x.l : Nat) : Int)) % 2 ^ 64).toNat)
        else
          let hit := if ((s.thread i.tk i.g (x.ts.headD 0)).getD {}).h then none
            else s.watchHit (coreOf i.tk) m.ctx load .g (ea x) (4 * x.l)
          let s := match hit with
            | some n => s.modCur fun i => x.ts.zipIdx.foldl (fun i (t, k) => i.watch x.ts t (ea x + 4 * (k : Int)) n (!load)) i
            | none => s
          if !load && hit.isSome then s else
          if !poisons.isEmpty then overAll l (fun s (a, _, _) => (s.deliver a [] true).sample a) (record s) else
          let (ids, s) := l.foldl (fun (ids, s) (a, _, _) =>
            let (id, s) := s.fresh
            (ids ++ [id], { s with accs := tset s.accs id a, ops := tmod s.ops op fun o => { o with left := o.left + 1 } }))
            (([] : List Nat), s)
          let parks := (ids.zip l).filterMap fun (id, _, c, _) => if c == 0 then none else some (id, c)
          s.parkAccs i.tk i.g parks
      let s := overAll (xs.filter fun x => x.ts.any (· ∈ j.live)) one s
      (s.settle (coreOf i.tk)).shiftEmpty
    | _, _ => s

def execLld (f : FR) (s : State) : Host.Outcome State Fault Refusal := .next (s.limbMem f true)
def execLst (f : FR) (s : State) : Host.Outcome State Fault Refusal := .next (s.limbMem f false)

end Sys2Proof.Machine
end

