-- ==== Sys2Proof/Machine/System.lean ====
section
/-! DEFINITION. Class S: special registers (13 R234-R236), halting, stepping, comparators and watchpoints (R237-R243;
28 R415), the mailbox (27 R410), cache and prefetch control (13 R244), samples (R245). -/

namespace Sys2Proof.Machine

/-! Special registers (13 R234-R236). -/

/-- 13 R235: a special register as a thread reads it. -/
def State.readSr (s : State) (tk g t n : Nat) : PDword :=
  match s.team tk, s.group tk g, s.thread tk g t with
  | some m, some gr, some th =>
    let d (x : Dword) : PDword := { val := x, poison := false }
    let w (x : Word) : PDword := d (x.setWidth 64)
    let k (x : Nat) : PDword := d (BitVec.ofNat 64 x)
    match n with
    | 0 => k s.dt
    | 2 => k gr.gwctmax
    | 4 => w th.fstat
    | 5 => w th.srs
    | 6 => k gr.role
    | 7 => w m.launchid
    | 8 => w m.x
    | 9 => w m.y
    | 10 => w m.z
    | 11 => k (coreOf tk)
    | 12 => k m.tenant
    | 13 => w th.encdet
    | 14 => w th.hstat
    | 15 => w th.xcause
    | 16 => th.xpc
    | 18 => d th.xaddr
    | 20 => { val := th.xdet.val.setWidth 64, poison := th.xdet.poison }
    | 21 => k m.hframe
    | 22 => k m.hentry
    | 24 => d (s.core (coreOf tk)).dentry
    | 26 => w m.stepdone
    | 27 => w th.smpltag
    | 28 => k gr.linkBase
    | 30 => k gr.linkSize
    | 31 => k gr.spillSize
    | 32 => k gr.spillBase
    | _ => k 0
  | _, _, _ => { val := 0, poison := false }

/-- The registers of a value of 32 or 64 bits. -/
def srRegs (x : PDword) (wide : Bool) : List PWord :=
  pw (x.val.extractLsb' 0 32) x.poison :: (if wide then [pw (x.val.extractLsb' 32 32) x.poison] else [])

def execRdsr (f : FR) (s : State) : Host.Outcome State Fault Refusal :=
  let (s, ps) := s.parts f.ext
  .next (match s.cur with
  | none => s
  | some i =>
    let n := f.a.toNat
    s.finish i f.w f.d.toNat (ps.map fun t => (t, srRegs (s.readSr i.tk i.g t n) (srWidth n == 64))))

/-- 13 R236: a thread's write of a special register. -/
def State.writeSr (s : State) (i : Issue) (n a t : Nat) : State :=
  if n == 16 then
    let x := s.pair i t a
    s.modThread i.tk i.g t fun th => { th with xpc := x }
  else
    let x := s.src i kInt t a
    if x.poison then s
    else if n == 4 then s.modThread i.tk i.g t (·.clearFstat x.val)
    else if n == 14 then s.modThread i.tk i.g t (·.writeHstat x.val)
    else if n == 26 then s.modTeam i.tk fun m => { m with stepdone := m.stepdone &&& ~~~(x.val &&& 0xFFFF) }
    else s

def execWrsr (f : FR) (s : State) : Host.Outcome State Fault Refusal :=
  let (s, ps) := s.parts f.ext
  .next (match s.cur with
  | none => s
  | some i => (overAll ps (fun s t => s.writeSr i f.d.toNat f.a.toNat t) s).shiftEmpty)

/-! The mailbox (27 R410, R411; 13 R243). -/

/-- A mailbox record of a group: it enters the quarantine, and its event of cause 46 the recorder. -/
def State.mboxMake (s : State) (tk g kind : Nat) (lanes : List Nat) (mask2 value pc : Nat) : State :=
  match s.team tk with
  | none => s
  | some m =>
    let (id, s) := s.fresh
    let r : MRec := { kind := kind, id := id, g := g, core := coreOf tk, launchid := m.launchid, x := m.x, y := m.y, z := m.z,
                      mask := wn (maskOf lanes), mask2 := wn mask2, value := wn value, pc := pc, dt := s.dt, ctx := m.ctx }
    let s := s.modCore (coreOf tk) fun c => { c with mboxOut := c.mboxOut ++ [r] }
    s.fault tk g lanes 46 kEvent 0 pc 0
/-- A record reaches the mailbox, or finds it full and is dropped and counted. -/
def State.mboxPut (s : State) (core : Nat) (r : MRec) : State :=
  s.modCore core fun c =>
    if 64 ≤ c.mbox.length then { c with mboxOvf := min 65535 (c.mboxOvf + 1) } else { c with mbox := c.mbox ++ [r] }

/-! Halting and stepping (13 R237-R240; 17 R287; 28 R415). -/

/-- The threads of a group that a lane mask selects and that are not Exited, whole integers where bound. -/
def Group.selected (m : Group) (lanes : Nat) : List Nat :=
  let l := m.notExited
  l.filter fun t => (m.integer t).any fun u => lanes.testBit u && u ∈ l
/-- Is a thread's clause in progress? -/
def State.issuing (s : State) (tk g t : Nat) : Bool := s.issues.any fun i => i.tk == tk && i.g == g && t ∈ i.cand

/-- The groups of a team that a group mask selects. -/
def Team.groupsOf (m : Team) (mask : Nat) : List Nat := (tkeys m.groups).filter fun g => g < 16 && mask.testBit g

/-- 13 R238: `halt`. -/
def State.dbgHalt (s : State) (tk gmask lmask : Nat) : State :=
  match s.team tk with
  | none => s
  | some m =>
    overAll (m.groupsOf gmask) (fun s g =>
      let gr := m.group g
      let sel := gr.selected lmask
      if sel.isEmpty then s else
      let new := sel.filter fun t => !(gr.thread t).halted && !(gr.thread t).haltPend
      let s := overAll new (fun s t => s.modThread tk g t fun th =>
        if th.st == .ready && !gr.parked && s.issuing tk g t then { th with haltPend := true } else { th with halted := true }) s
      s.mboxMake tk g 2 new 0 0 (gr.thread (sel.headD 0)).pc) s

/-- 13 R238: `resume`: it has no effect on a thread that is neither Halted nor about to be. -/
def State.dbgResume (s : State) (tk gmask lmask : Nat) : State :=
  match s.team tk with
  | none => s
  | some m =>
    overAll (m.groupsOf gmask) (fun s g =>
      overAll ((m.group g).selected lmask) (fun s t =>
        if ((m.group g).thread t).halted || ((m.group g).thread t).haltPend then
          (s.modThread tk g t fun th => { th with haltPend := false, halted := false }).ccTest tk g t
        else s) s) s

/-- 13 R240, 28 R415: `sstep`. Stepped are the Halted threads with Ready beneath: none that is held at step 3 of 05 R80. A step of the
group that is still in progress is reported with this one, in one record (log 117). -/
def State.dbgStep (s : State) (tk gmask lmask : Nat) : State :=
  match s.team tk with
  | none => s
  | some m =>
    overAll (m.groupsOf gmask) (fun s g =>
      let gr := m.group g
      let sel := (tkeys gr.th).filter fun t => (gr.integer t).any fun u => lmask.testBit u
      if sel.isEmpty || gr.notExited.isEmpty then s else
      let go := sel.filter fun t => (gr.thread t).halted && (gr.thread t).st == .ready && (gr.thread t).held.isEmpty && !gr.parked
      let miss := maskOf (sel.filter fun t => !(t ∈ go))
      let low := gr.thread (sel.headD 0)
      if go.isEmpty then
        (s.modTeam tk fun m => { m with stepdone := m.stepdone ||| (1 <<< g) }).mboxMake tk g 3 [] miss 0 (if low.exited then 0 else low.pc)
      else
        let busy := !gr.stepped.isEmpty || gr.th.any (·.2.step)
        let s := s.modGroup tk g fun x => { x with
          notStepped := if busy then x.notStepped ||| wn miss else wn miss, stepped := if busy then x.stepped else [] }
        overAll go (fun s t => s.modThread tk g t fun th => { th with halted := false, step := true }) s) s

/-- 13 R237: a refused debug instruction sets DERR. -/
def State.derr (s : State) (i : Issue) (ps : List Nat) : State :=
  overAll ps (fun s t => s.modThread i.tk i.g t fun th => { th with derr := true }) s

/-- How an operand of a debug instruction is read: not at all, as a scalar, or as a pair. -/
inductive DbgArg where
  | none | scalar | pair
deriving DecidableEq, Repr
def State.dbgArg (s : State) (i : Issue) (t c : Nat) (k : DbgArg) : PDword :=
  match k with
  | .none => { val := 0, poison := false }
  | .scalar => let x := s.src i kInt t c; { val := x.val.setWidth 64, poison := x.poison }
  | .pair => s.pair i t c
/-- 13 R237: the mould of the debug instructions, once per candidate: `op` answers none where it refuses. -/
def State.debugOp (s : State) (f : FR) (ka kb : DbgArg) (op : State → Issue → List Nat → PDword → Word → Option State) : State :=
  let (s, ps) := s.parts f.ext
  match s.cur with
  | none => s
  | some i =>
    if ps.isEmpty then s.shiftEmpty else
    let t := ps.headD 0
    let a := s.dbgArg i t f.a.toNat ka
    let b := s.dbgArg i t f.b.toNat kb
    (if b.poison then s.derr i ps
     else match op s i ps a (b.val.setWidth 32) with
      | some s => s
      | none => s.derr i ps).shiftEmpty

/-- The three instructions that act on the threads of a mask pair. -/
def State.maskOp (s : State) (f : FR) (op : State → Nat → Nat → Nat → State) : State :=
  s.debugOp f .scalar .scalar fun s i _ a b => if a.poison then none else some (op s i.tk a.val.toNat b.toNat)
def execHalt (f : FR) (s : State) : Host.Outcome State Fault Refusal := .next (s.maskOp f State.dbgHalt)
def execResume (f : FR) (s : State) : Host.Outcome State Fault Refusal := .next (s.maskOp f State.dbgResume)
def execSstep (f : FR) (s : State) : Host.Outcome State Fault Refusal := .next (s.maskOp f State.dbgStep)
def execMboxWr (f : FR) (s : State) : Host.Outcome State Fault Refusal :=
  .next (s.debugOp f .scalar .none fun s i ps a _ => if a.poison then none else some (s.mboxMake i.tk i.g 1 ps 0 a.val.toNat i.pc))

/-- The context of a team. -/
def State.ctxOf (s : State) (tk : Nat) : Nat := match s.team tk with | some m => m.ctx | none => 0

/-- 13 R242: arm a watchpoint, or refuse; for `.sp` and `.sh` the lower register of the address pair alone is used. -/
def execWptArm (f : FR) (s : State) : Host.Outcome State Fault Refusal :=
  .next (s.debugOp f .pair .scalar fun s i ps a b =>
    let c := b.toNat
    let lo := s.dbgArg i (ps.headD 0) f.a.toNat .scalar
    let (addr, bad) := if c % 4 == 0 then (a.val.toNat, a.poison) else (lo.val.toNat, lo.poison)
    if bad || c % 4 == 3 || field c 2 2 == 0 || field c 4 4 == 15 || addr % (4 * 2 ^ field c 4 4) ≠ 0 then none
    else some (s.modCore (coreOf i.tk) fun k => { k with
      wpts := tset k.wpts f.d.toNat { addr := addr, ctl := b, ctx := s.ctxOf i.tk } }))
def execWptClr (f : FR) (s : State) : Host.Outcome State Fault Refusal :=
  .next (s.debugOp f .none .none fun s i _ _ _ => some (s.modCore (coreOf i.tk) fun k => { k with wpts := terase k.wpts f.d.toNat }))
/-- 13 R241: arm a comparator, or refuse. -/
def execPcmpSet (f : FR) (s : State) : Host.Outcome State Fault Refusal :=
  .next (s.debugOp f .pair .scalar fun s i _ a b =>
    if a.poison || a.val.toNat % 4 ≠ 0 || 2 ^ 56 ≤ a.val.toNat then none
    else some (s.modCore (coreOf i.tk) fun k => { k with
      cmps := tset k.cmps f.d.toNat { addr := a.val.toNat, filter := b, ctx := s.ctxOf i.tk } }))
def execPcmpClr (f : FR) (s : State) : Host.Outcome State Fault Refusal :=
  .next (s.debugOp f .none .none fun s i _ _ _ => some (s.modCore (coreOf i.tk) fun k => { k with cmps := terase k.cmps f.d.toNat }))

/-! Cache and prefetch control (13 R244). -/

/-- The pages of [a, e) from page `p` on, `n` of them, with the key of each that admits the access. -/
def State.rangePages (s : State) (core lane ctx : Nat) (p : Perm) (pages : List Nat) : List (Nat × Nat) × State :=
  pages.foldl (fun (l, s) pg =>
    match s.xlate core (some lane) ctx (4096 * pg) p with
    | (.ok key _, s) => (l ++ [(pg, key)], s)
    | (_, s) => (l, s)) ([], s)

/-- What one byte range of a cache instruction does: the state, and the accesses it starts. -/
inductive CacheOp where
  | prefetch (l1 : Bool) | cinv | cwb
deriving DecidableEq, Repr

/-- Lines, as keys / 128 with their virtual line numbers, of the pages found that meet [a, e). -/
def rangeLines (a e : Nat) (pages : List (Nat × Nat)) : List (Nat × Nat) :=
  pages.flatMap fun (pg, key) => (List.range 32).filterMap fun i =>
    let v := 32 * pg + i
    if a < 128 * v + 128 && 128 * v < e then some (v, key / 128 + i) else none

/-- 13 R244: one range [a, a + b) of a unit of threads. -/
def State.cacheRange (s : State) (i : Issue) (m : Team) (k : CacheOp) (op : Nat) (u : List Nat) (a b : Nat) : State :=
  let core := coreOf i.tk
  -- a prefetch takes the first 512 lines of the range
  let last := match k with | .prefetch _ => a / 128 * 128 + 65536 | _ => a + b
  let e := min (min (a + b) last) (2 ^ 56)
  if e ≤ a then s else
  let pages := (List.range ((e - 1) / 4096 + 1 - a / 4096)).map (a / 4096 + ·)
  let (found, s) := s.rangePages core (laneOf i.g (u.headD 0)) m.ctx (match k with | .prefetch _ => .read | _ => .drop) pages
  let base : Access := { src := core, kind := .writeback, tk := i.tk, g := i.g, lanes := u, clause := i.id, ctx := m.ctx,
                         tenant := m.tenant, width := 128, op := some op, pc := i.pc, dt := s.dt }
  let start (s : State) (kind : AKind) (l : List (Nat × Nat)) : State :=
    let s := { s with ops := tmod s.ops op fun o => { o with left := o.left + l.length } }
    overAll l (fun s x =>
      let (id, s) := s.fresh
      { s with accs := tset s.accs id { base with kind := kind, va := 128 * x.1, key := 128 * x.2 } }) s
  match k with
  | .prefetch l1 => start s (.prefetch l1) (rangeLines a e found)
  | .cinv =>
    let lines := (rangeLines a e found).map (·.2)
    let s := { s with ops := tmod s.ops op fun o => { o with cinv := o.cinv ++ u.map fun t => (t, a / 128, (e - 1) / 128) } }
    s.selfInvalidateIn core (· ∈ lines)
  | .cwb =>
    let dirty (l : Nat) : Bool :=
      (s.line l).dirty || s.accs.any fun x => x.2.isWrite && x.2.space == .g && x.2.tk == i.tk && x.2.g == i.g && x.2.key / 128 == l
    start s .writeback ((rangeLines a e found).filter fun x => dirty x.2)

/-- 13 R244: the three cache instructions. -/
def State.cacheOp (s : State) (f : FR) (k : CacheOp) : State :=
  let (s, ps) := s.parts f.ext
  match s.cur, s.cur.bind fun i => s.team i.tk with
  | some i, some m =>
    let once := 64 ≤ f.a.toNat
    let a (t : Nat) : PDword := s.pair i t f.a.toNat
    let b (t : Nat) : PWord := s.src i kInt t f.b.toNat
    let s := s.killAll i.tk i.g (ps.filter fun t => (a t).poison) 25 i.pc
    let live := (s.cur.map (·.live)).getD []
    let ps := ps.filter (· ∈ live)
    let units := if ps.isEmpty then [] else if once then [ps] else ps.map ([·])
    let jobs := units.filter fun u => !(b (u.headD 0)).poison
    if jobs.isEmpty then s.shiftEmpty else
    let (op, s) := s.newOp i f.ext jobs.flatten [] 0
    (overAll jobs (fun s u =>
      s.cacheRange i m k op u (a (u.headD 0)).val.toNat (b (u.headD 0)).val.toNat) s).shiftEmpty
  | _, _ => s

def execPrefetch (f : FR) (s : State) : Host.Outcome State Fault Refusal :=
  .next (s.cacheOp f (.prefetch (immOf f.ext % 2 == 1)))
def execCinv (f : FR) (s : State) : Host.Outcome State Fault Refusal := .next (s.cacheOp f .cinv)
def execCwb (f : FR) (s : State) : Host.Outcome State Fault Refusal := .next (s.cacheOp f .cwb)

/-! Samples (13 R245). -/

def execSmpl (f : FR) (s : State) : Host.Outcome State Fault Refusal :=
  let (s, ps) := s.parts f.ext
  .next (match s.cur with
  | none => s
  | some i =>
    (overAll ps (fun s t =>
      let x := s.src i kInt t f.a.toNat
      s.modThread i.tk i.g t fun th => { th with
        smpltag := if x.poison then th.smpltag else x.val &&& 0xFFFF
        smplNext := th.smplNext || immOf f.ext % 2 == 1 }) s).shiftEmpty)

end Sys2Proof.Machine
end

