-- ==== Sys2Proof/Machine/Issue.lean ====
section
/-! DEFINITION. The clause boundary: candidates (01 R25, R26), fetch, decode, eligibility, grant, predicate, hazard check and
issue (05 R80; 01 R28; 02 R48; 13 R233, R241; 17 R286), the end of a clause (11 R200; 13 R231, R238, R240), regang holds (R227). -/

namespace Sys2Proof.Machine

/-! Candidates (01 R25, R26). -/

/-- The tuple of a thread. -/
def Thread.tuple (th : Thread) : Nat × Nat × Nat := (th.pc, th.wb, th.cd)
/-- Candidates among some live threads of a group. -/
def Group.candsOf (m : Group) (live : List Nat) : List (List Nat) :=
  let tup (t : Nat) := (m.thread t).tuple
  let slice (n : Nat) : List Nat := live.filter fun t => t / 4 == n
  let key (n : Nat) : Option (Nat × Nat × Nat) :=
    match slice n with
    | [] => none
    | t :: r => if r.all fun u => tup u == tup t then some (tup t) else none
  let keys := ((List.range 8).filterMap key).eraseDups
  let gangs := keys.map fun x => live.filter fun t => key (t / 4) == some x
  let solo := (List.range 8).flatMap fun n =>
    if (key n).isSome then [] else (((slice n).map tup).eraseDups).map fun x => (slice n).filter fun t => tup t == x
  gangs ++ solo
/-- 01 R26, 13 R240: the candidates of a group; stepped threads form theirs among themselves. -/
def Group.cands (m : Group) : List (List Nat) :=
  let live := m.liveThreads
  m.candsOf (live.filter fun t => !(m.thread t).step) ++ m.candsOf (live.filter fun t => (m.thread t).step)

/-- 01 R28: the slices of a partition that a clause in progress holds, or that a rebuild stops (25 R387). -/
def State.busySlices (s : State) (core part : Nat) : List Nat :=
  ((s.issues.filter fun i => coreOf i.tk == core && i.g % 4 == part).flatMap fun i => i.cand.map (· / 4)) ++
    (s.core core).slices.filterMap fun (n, x) => if n / 8 == part && s.dt < x.stop then some (n % 8) else none

/-- The slices of a candidate in its partition. -/
def slicesOf (c : List Nat) : List Nat := (c.map (· / 4)).eraseDups
/-- 01 R28: are the slices of a candidate free, their slot of this tick not granted? -/
def State.freeSlices (s : State) (core part : Nat) (c : List Nat) : Bool :=
  (slicesOf c).all fun n => !(n ∈ s.busySlices core part) && (tget (s.core core).slices (8 * part + n) {}).granted != some s.dt

/-- May a group's candidates issue now: nothing holds the group, its core or its source (11 R200; 23 R365; 25 R392; 27 R397)? -/
def State.groupOpen (s : State) (tk g : Nat) : Bool :=
  match s.team tk, s.group tk g with
  | some _, some gr =>
    let core := coreOf tk
    !gr.parked && !gr.vfence && !gr.retired && s.roomAt core && (s.core core).stop ≤ s.dt &&
      (tget s.clusters (core / 8) {}).stop ≤ s.dt &&
      !(s.accs.any fun x => x.2.tk == tk && x.2.g == g && x.2.save.isSome)
  | _, _ => false

/-! Fetch (05 R80, R108; 23 R367). -/

/-- The word at a fetch address: from the instruction cache, which takes the line on a miss; a line with a poisoned word is not
kept, so that a replay finds the line as it was repaired (25 R386). -/
def State.fetchWord (s : State) (core ctx va key : Nat) : PWord × State :=
  let n := va % 128 / 4
  match ((s.core core).icache.find? fun l => l.ctx == ctx && l.line == va / 128) with
  | some l => (l.words.getD n (clean 0), s)
  | none =>
    let ws := s.lineWords (key / 128)
    let l : ICLine := { ctx := ctx, line := va / 128, words := ws }
    (ws.getD n (clean 0), if ws.any (·.poison) then s else s.modCore core fun c => { c with icache := (l :: c.icache).take 1024 })

/-- Cause of a fetch (23 R375). -/
def Xlate.fetchCause (x : Xlate) : Nat :=
  match x with | .ok _ _ => 0 | .absent => 1 | .migrating => 2 | .protection => 4 | .unmapped _ => 5 | .outside => 6

/-- One word of a clause: its value, or its cause with DETAIL. -/
def State.fetchAt (s : State) (core ctx va : Nat) : Except (Nat × Nat) Word × State :=
  if 2 ^ 56 ≤ va then (.error (6, 0), s) else
  match s.xlate core none ctx va .exec with
  | (.ok key r, s) =>
    let (w, s) := s.fetchWord core ctx va key
    (if w.poison then .error (if r then 3 else 7, 0) else .ok w.val, s)
  | (x, s) => (.error (x.fetchCause, x.detail), s)

/-- A clause's words, or the cause that its fetch meets first with the address it names. -/
def State.fetch (s : State) (core ctx pc : Nat) : Except (Nat × Nat × Nat) (List Word) × State :=
  match s.fetchAt core ctx pc with
  | (.error (c, d), s) => (.error (c, pc, d), s)
  | (.ok h, s) =>
    -- a word that is no header opens no clause (05 R106 reason 11)
    let n := if h.extractLsb' 28 4 == 15 then (h.extractLsb' 24 4).toNat else 0
    let (ws, bad, s) := (List.range n).foldl (fun (ws, bad, s) k =>
      let va := pc + 4 * (k + 1)
      match s.fetchAt core ctx va with
      | (.ok w, s) => (ws ++ [w], bad, s)
      | (.error (c, d), s) =>
        let addr := if va / 4096 == pc / 4096 then pc else va / 4096 * 4096
        (ws, (match bad with | some (c', _, _) => if c < c' then some (c, addr, d) else bad | none => some (c, addr, d)), s))
      (([] : List Word), (none : Option (Nat × Nat × Nat)), s)
    match bad with
    | some b => (.error b, s)
    | none => (.ok (h :: ws), s)

/-! Eligibility (05 R80 step 3). -/

/-- The queues that the sources of an instruction pop, one entry each (05 R94). -/
def popsOf (i : Instr) : List Nat := (sourceCodes i).filterMap fun (_, c) => if 132 ≤ c && c < 140 then some (c - 132) else none
/-- The queue that an instruction pushes to (11 R212). -/
def pushOf (i : Instr) : Option Nat := match i with | .qpush f => some f.d.toNat | _ => none
/-- The operands of a rendezvous word (15 R268). -/
def mmaOf (i : Instr) : Option (FR × Bool) := match i with | .mma f => some (f, false) | .mmaZ f => some (f, true) | _ => none

/-- Entries of a team queue, those not yet poppable included. -/
def State.queued (s : State) (tk q : Nat) : Nat :=
  (match s.team tk with | some m => (tget m.q q []).length | none => 0) +
    (s.accs.filter fun x => x.2.tk == tk && match x.2.kind with | .push p _ => p == q | _ => false).length

/-- What a candidate finds at step 3. -/
inductive Hold where
  /-- eligible -/ | none
  /-- held: kinds and objects, as `Thread.held` has them -/ | held (l : List (Nat × Nat))
  /-- a rendezvous whose deposits are complete and fail a check -/ | failed (seq sub : Nat)
deriving DecidableEq, Repr

/-- The instructions of a clause in progress that are still to be made. -/
def Issue.rest (i : Issue) : List Instr :=
  let rec go : Nat → List Word → List Instr
    | 0, _ => []
    | n + 1, ws => match decodeNext i.header.cls ws with
      | some (x, r) => x :: go n r
      | none => []
  go i.words.length i.words

/-- 05 R80, R95: the wait mask, the slot limits and the queues: what the clauses in progress of the group have still to assign, and of
the team to pop and push, counts as well (11 R211, R212). Every hold is named, so that the team watchdog sees each that it looks at
(R201). -/
def State.holdOf (s : State) (i : Issue) (l : List (Nat × Instr)) : Hold :=
  match s.team i.tk, s.group i.tk i.g with
  | some m, some gr =>
    let count (l : List Nat) (x : Nat) : Nat := (l.filter (· == x)).length
    let inTeam := (s.issues.filter fun j => j.tk == i.tk).flatMap Issue.rest
    let inGroup := (s.issues.filter fun j => j.tk == i.tk && j.g == i.g).flatMap Issue.rest
    let busy := (List.range 8).any fun k => i.header.wait.getLsbD k && tget gr.ws k 0 ≠ 0
    let slots := (l.filter fun x => assignsSlot x.2).map fun x => slotOf x.2
    let others := (inGroup.filter assignsSlot).map slotOf
    let full := (List.range 8).any fun k => count slots k ≠ 0 && 63 < tget gr.ws k 0 + count slots k + count others k
    let pops := l.flatMap fun x => popsOf x.2
    let pushes := l.filterMap fun x => pushOf x.2
    let short := (List.range 8).filter fun q =>
      (count pops q ≠ 0 && (tget m.q q []).length < count pops q + count (inTeam.flatMap popsOf) q) ||
        (count pushes q ≠ 0 && 16 < s.queued i.tk q + count pushes q + count (inTeam.filterMap pushOf) q)
    let l := (if busy || full then [(0, 0)] else []) ++ short.map fun q => (if 6 ≤ q || count pushes q ≠ 0 then 6 else 16, q)
    if l.isEmpty then .none else .held l
  | _, _ => .held [(0, 0)]

/-- 15 R269: the subcode that complete deposits of a number fail with. What an earlier word of their clauses may still change, the run
and the window, is left to the joint step where the word is not the first of its clause (log 32). -/
def State.earlyVerdict (s : State) (tk g seq : Nat) : Option Nat :=
  match s.team tk, s.verdict tk g seq with
  | some m, some sub =>
    if sub ≤ 7 || (m.gangOf g).all fun x => (m.group x).gseq == seq && (s.deposit tk x seq).any (·.widx == 1) then some sub else none
  | _, _ => none
/-- 15 R268-R270: deposit the clause's `mma` words; the number of the first that is not complete, or whose check fails, with its
subcode, and whether the array has room. The step that the array is making counts among its two, so that a clause of three `mma` words is
held for good (log 120). -/
def State.latchHold (s : State) (i : Issue) (l : List (Nat × Instr)) : Hold × State :=
  let words := l.filterMap fun x => (mmaOf x.2).map fun y => (x.1, y)
  match s.group i.tk i.g with
  | none => (.held [(0, 0)], s)
  | some gr =>
    if words.isEmpty then (.none, s) else
    let queued := ((tget (s.core (coreOf i.tk)).arrays (i.g % 4) []).filter (s.dt < ·)).length
    if 2 < queued + words.length then (.held [(0, 0)], s) else
    let rec go (n : Nat) (ws : List (Nat × FR × Bool)) (s : State) (h : Hold) : Hold × State :=
      match ws with
      | [] => (h, s)
      | (widx, f, z) :: r =>
        let x := s.src i kInt (i.cand.headD 0) f.a.toNat
        if x.poison then (h, s) else
        let seq := (gr.gseq + n) % 2 ^ 16
        let d : Deposit := { tk := i.tk, g := i.g, seq := seq, z := z, vb := f.d.toNat, step := x.val.toNat, k := f.b.toNat,
                             cand := i.cand, pc := i.pc, widx := widx, whole := s.whole i }
        let s := if s.deposit i.tk i.g seq == some d then s else s.putDeposit d
        let h' : Hold := if h != .none then h else if !s.deposited i.tk i.g seq then .held [(4, seq)]
          else match s.earlyVerdict i.tk i.g seq with
            | some sub => .failed seq sub
            | none => .none
        go (n + 1) r s h'
    go 0 words s .none

/-- The threads of a candidate are held at step 3 as a list says, from now on where a hold is new. -/
def State.markHeld (s : State) (tk g : Nat) (cand : List Nat) (l : List (Nat × Nat)) : State :=
  let clock := match s.team tk with | some m => m.wdClock | none => 0
  overAll cand (fun s t => s.modThread tk g t fun th =>
    { th with held := l.map fun x => ((((th.held.find? fun h => h.2 == x).map (·.1)).getD clock), x) }) s

/-- What a candidate finds at steps 1 to 3. -/
inductive Prep where
  /-- held, with the state that its marks and deposits leave; or parked -/ | held (s : State)
  /-- a trap of its threads -/ | taken (s : State)
  /-- eligible -/ | go (i : Issue) (l : List (Nat × Instr)) (s : State)
deriving DecidableEq

/-- The words that the threads of a candidate have fetched at an address. -/
def Group.fetchedAt (gr : Group) (cand : List Nat) (pc : Nat) : Option (List Word) :=
  match (cand.map fun t => (gr.thread t).fetched).eraseDups with
  | [some (p, ws)] => if p == pc then some ws else none
  | _ => none
/-- Threads of a candidate keep the words that they fetched (23 R362; 24 R378), or lose them. -/
def State.keepFetch (s : State) (tk g : Nat) (cand : List Nat) (x : Option (Nat × List Word)) : State :=
  overAll cand (fun s t => s.modThread tk g t fun th => { th with fetched := x }) s
/-- 05 R80 step 1: a candidate's words, fetched before or now. -/
def State.fetchFor (s : State) (tk g : Nat) (cand : List Nat) (core ctx pc : Nat) : Except (Nat × Nat × Nat) (List Word) × State :=
  match ((s.group tk g).getD {}).fetchedAt cand pc with
  | some ws => (.ok ws, s)
  | none => s.fetch core ctx pc

/-- 05 R80 steps 1 to 3 for a candidate; none where a thread of it is not Ready or in a clause in progress. -/
def State.prepare (s : State) (tk g : Nat) (cand : List Nat) : Option Prep :=
  match s.team tk, s.group tk g, cand with
  | some m, some gr, t0 :: _ =>
    if !cand.all (fun t => (gr.thread t).isReady) || s.issues.any fun i => i.tk == tk && i.g == g && cand.any (· ∈ i.cand) then none else
    let pc := (gr.thread t0).pc
    match s.fetchFor tk g cand (coreOf tk) m.ctx pc with
    | (.error (c, addr, d), s) =>
      if c ≤ 3 then some (.held (s.parkGroup tk g .fetch [{ cause := c, va := addr, lanes := cand }] pc).2)
      else some (.taken (s.trapAll tk g cand fun _ => { cause := c, xpc := pc, xaddr := addr, addr := addr, detail := d }))
    | (.ok [], s) => some (.held s)
    | (.ok (h :: ws), s) =>
      let taken (s : State) (x : Trap) : Option Prep := some (.taken ((s.keepFetch tk g cand none).trapAll tk g cand fun _ => x))
      match decodeClause h ws with
      | .error e =>
        let s := overAll cand (fun s t => s.modThread tk g t fun th => { th with encdet := e.encdet }) s
        let at_ := if e.reason == 11 then pc else 0
        taken s { cause := 29, xpc := pc, xaddr := at_, addr := at_ }
      | .ok (hd, l) =>
        if l.any fun x => rangeFails x.2 gr.window then taken s { cause := 31, xpc := pc } else
        let i : Issue := { tk := tk, g := g, pc := pc, header := hd, cand := cand, live := cand, words := ws }
        let held (s : State) (k : List (Nat × Nat)) : Option Prep :=
          some (.held ((s.keepFetch tk g cand (some (pc, h :: ws))).markHeld tk g cand k))
        match s.holdOf i l with
        | .held k => held s k
        | _ =>
          match s.latchHold i l with
          | (.none, s) => some (.go i l (s.keepFetch tk g cand (some (pc, h :: ws))))
          | (.failed seq sub, s) =>
            let deps := (m.gangOf g).filterMap fun x => s.deposit tk x seq
            let s := overAll deps (fun s d => (s.keepFetch tk d.g d.cand none).dropDeposit tk d.g seq) s
            some (.taken (s.rendezvousTraps tk deps sub))
          | (.held k, s) => held s k
  | _, _, _ => none

/-! Grant (01 R28; 02 R48; 05 R81). -/

/-- 15 R268: does a clause with an `mma` word wait for its partners: for their clauses to be granted as well, and at the word for the
joint step? -/
def State.waitsInLatch (s : State) (i : Issue) : Bool :=
  match s.team i.tk, s.group i.tk i.g with
  | some m, some gr =>
    if i.live.isEmpty || !(i.rest.any fun x => (mmaOf x).isSome) then false else
    match s.deposit i.tk i.g gr.gseq with
    | none => false
    | some d =>
      !d.started && !s.startable i.tk i.g gr.gseq && (d.ready || (m.gangOf i.g).any fun x =>
        !m.gone x && (s.deposit i.tk x gr.gseq).isSome && !(s.issues.any fun j => j.tk == i.tk && j.g == x))
  | _, _ => false
/-- Age of a candidate. -/
def State.age (s : State) (tk g : Nat) (cand : List Nat) : Nat :=
  s.dt - ((cand.map fun t => ((s.thread tk g t).getD {}).lastIssue).foldl min s.dt)
/-- Is a candidate before another in the arbiter's order? -/
def State.older (s : State) (tk g : Nat) (a : List Nat) (tk' g' : Nat) (b : List Nat) : Bool :=
  let x := s.age tk g a
  let y := s.age tk' g' b
  let k (tk g : Nat) (l : List Nat) : Nat := (((s.group tk g).getD {}).resident * 8 + l.headD 0 / 4) * 32 + l.headD 0
  y < x || (x == y && k tk g a < k tk' g' b)
/-- May a candidate that is eligible be granted at all, its team not draining (21 R341)? A clause that its partners of a rendezvous
stand at has begun with theirs. -/
def State.mayStart (s : State) (tk g : Nat) (l : List (Nat × Instr)) : Bool :=
  match s.team tk with
  | none => false
  | some m => !m.drain || (l.any fun x => (mmaOf x.2).isSome) && s.issues.any fun i => i.tk == tk && g ∈ m.gangOf i.g &&
      i.rest.any fun x => (mmaOf x).isSome
/-- The eligible candidates of a partition. -/
def State.eligible (s : State) (core part : Nat) : List (Nat × Nat × List Nat) :=
  (s.teams.filter fun e => coreOf e.1 == core).flatMap fun (tk, m) =>
    (m.groups.filter fun e => e.1 % 4 == part).flatMap fun (g, gr) =>
      if !s.groupOpen tk g then [] else
      (gr.cands.filter fun c => match s.prepare tk g c with | some (.go _ l _) => s.mayStart tk g l | _ => false).map fun c => (tk, g, c)
/-- 05 R81: has a candidate a mark of the yield hint? -/
def State.yields (s : State) (tk g : Nat) (c : List Nat) : Bool := c.any fun t => ((s.thread tk g t).getD {}).yielded ≠ 0
/-- 01 R29: has a thread of a candidate been passed over so often that its slices are kept for it? How the bound of 64 slots is kept is the
model's choice: from 24 passed slots on, slices of an older candidate that cannot be granted yet are kept from younger ones (log 40). -/
def State.isLate (s : State) (tk g : Nat) (c : List Nat) : Bool := c.any fun t => 24 ≤ ((s.thread tk g t).getD {}).passed
/-- 01 R26, R29: slices kept as well: those of Ready threads that have been passed over as often and stand beside a clause in progress of
their own candidate, which ends by itself unless it waits at a rendezvous (log 40). -/
def State.lateSlices (s : State) (core part : Nat) : List Nat :=
  (s.teams.filter fun e => coreOf e.1 == core).flatMap fun (tk, m) =>
    (m.groups.filter fun e => e.1 % 4 == part).flatMap fun (g, gr) =>
      let mine := s.issues.filter fun i => i.tk == tk && i.g == g
      if !s.groupOpen tk g || mine.any (s.waitsInLatch ·) then [] else
      (gr.cands.filter fun c => mine.any fun i => c.any (· ∈ i.cand)).flatMap fun c =>
        (c.filter fun t => (gr.thread t).isReady && 24 ≤ (gr.thread t).passed && !mine.any (t ∈ ·.cand)).map (· / 4)
/-- 01 R28, R29; 02 R48; 05 R81: may an eligible candidate be granted now? Its slices are free; a mark of the yield hint stops it only
beside an unmarked rival for a slice; and no rival that can be granted, or that has waited long, is before it. -/
def State.granted (s : State) (tk g : Nat) (cand : List Nat) : Bool :=
  let core := coreOf tk
  let part := g % 4
  let all := s.eligible core part
  let meets (a b : List Nat) : Bool := a.any fun t => b.any fun u => t / 4 == u / 4
  let rivals (x : Nat × Nat × List Nat) := all.filter fun y => y != x && meets x.2.2 y.2.2
  let stopped (x : Nat × Nat × List Nat) : Bool :=
    s.yields x.1 x.2.1 x.2.2 && (rivals x).any fun y => !s.yields y.1 y.2.1 y.2.2
  let late := s.lateSlices core part
  all.contains (tk, g, cand) && s.freeSlices core part cand && !(slicesOf cand).any (late.contains ·) && !stopped (tk, g, cand) && (rivals (tk, g, cand)).all fun y =>
    stopped y || s.older tk g cand y.1 y.2.1 y.2.2 || !(s.freeSlices core part y.2.2 || s.isLate y.1 y.2.1 y.2.2)

/-! Hazards (05 R97; 06 R115; 13 R233; 17 R286). -/

/-- The registers of a word beyond those its codes show: a fragment's (15 R265, R268). -/
def State.moreRegs (s : State) (i : Issue) (x : Instr) : List (Nat × Nat) :=
  match x with
  | .fragLd f => match (s.range i.tk f.b.toNat).record with
    | some d => let c := tileRec d; [(f.d.toNat, fragRegs c.fmt c.cols c.sc)]
    | none => []
  | .mma f | .mmaZ f => match s.group i.tk i.g with
    | some m =>
      let gl := gangList m.gang
      let n := (quartersOf (max 1 gl.length) ((gl.findIdx? (· == i.g)).getD 0)).length
      [(f.d.toNat, (tget m.fs 0 {}).count * n)]
    | none => []
  | _ => []
/-- Register codes of a list of groups, in order: of several registers of one operand that fail, the lowest code is named (log 108). -/
def regCodes (l : List (Nat × Nat)) : List Nat := l.flatMap fun (c, n) => (List.range n).map (c + ·)
/-- The first register of a clause that is a hazard for a thread: code, slot and word (05 R97; 06 R115). -/
def State.hazard (s : State) (i : Issue) (l : List (Nat × Instr)) (t : Nat) : Option (Nat × Nat × Nat) :=
  let th := (s.thread i.tk i.g t).getD {}
  let pend := (s.ops.filter fun o => o.2.tk == i.tk && o.2.g == i.g && !i.header.wait.getLsbD o.2.slot).flatMap fun o =>
    (o.2.pend.filter fun p => p.1 == t).flatMap fun p => p.2.map fun k => (k, o.2.slot)
  let rec go (own : List (Nat × Nat)) (l : List (Nat × Instr)) : Option (Nat × Nat × Nat) :=
    match l with
    | [] => none
    | (widx, x) :: r =>
      let codes := regCodes (readRegs x ++ writtenRegs x ++ s.moreRegs i x)
      let bad := codes.findSome? fun c =>
        match (own ++ pend).find? fun p => p.1 == th.pendKey c with
        | some (_, slot) => some (c, slot, widx)
        | none => none
      match bad with
      | some b => some b
      | none =>
        let mine := if assignsSlot x then (regCodes (writtenRegs x ++ s.moreRegs i x)).map fun c => (th.pendKey c, slotOf x) else []
        go (own ++ mine) r
  go [] l
/-- Does a thread participate at a word, by its predicates as they stand? -/
def State.takes (s : State) (i : Issue) (x : Instr) (t : Nat) : Bool :=
  match extOf x with
  | none => true
  | some e => let p := ((s.thread i.tk i.g t).getD {}).predN e.p.toNat e.pn; p.val && !p.poison
/-- A word of class C made on a copy of the state. -/
def chainWord (x : Instr) (s : State) : State :=
  let go (o : Host.Outcome State Fault Refusal) : State := match o with | .next t => t | _ => s
  match x with
  | .lbind f => go (execLbind f s) | .lunbind f => go (execLunbind f s) | .ladd f => go (execLadd f s) | .laddc f => go (execLaddc f s)
  | .lsub f => go (execLsub f s) | .lsubb f => go (execLsubb f s) | .lneg f => go (execLneg f s) | .lcmp f => go (execLcmp f s)
  | .lshl f => go (execLshl f s) | .lshr f => go (execLshr f s) | .lshlw f => go (execLshlw f s) | .lshrw f => go (execLshrw f s)
  | .lmac f => go (execLmac f s) | .lnorm f => go (execLnorm f s) | .lld f => go (execLld f s) | .lst f => go (execLst f s)
  | .lovf f => go (execLovf f s) | _ => s
/-- 17 R286: the integers of a bound group in which the predicate of a class C word differs as the clause reaches it: its words are made on
a copy of the state, since an earlier `lcmp` may write the predicate of a later word. -/
def State.chainSplits (s : State) (i : Issue) (l : List (Nat × Instr)) (act : List Nat) : List Nat :=
  let start : State := { s with issues := { i with live := act } :: s.issues }
  (l.foldl (fun (bad, s) (widx, x) =>
    match s.cur, (s.group i.tk i.g).bind (·.limbs) with
    | some j, some n =>
      let ks := ((j.live.map (· / n)).eraseDups).filter fun k =>
        let ts := j.live.filter fun t => t / n == k
        ts.any (s.takes j x) && ts.any fun t => !s.takes j x t
      (bad ++ ks, chainWord x (s.modCur fun j => { j with widx := widx }))
    | _, _ => (bad, s)) (([] : List Nat), start)).1
/-- 05 R80 step 6: the threads that fail, with their traps, of one cause for an integer (17 R287). -/
def State.failures (s : State) (i : Issue) (l : List (Nat × Instr)) (act : List Nat) : List (Nat × Trap) :=
  match s.group i.tk i.g with
  | none => []
  | some m =>
    let wait := act.filterMap fun t => (s.hazard i l t).map fun (c, slot, w) =>
      let v := c + slot * 2 ^ 8 + w * 2 ^ 11
      (t, ({ cause := 30, xpc := i.pc, xdet := clean (wn v), detail := v } : Trap))
    let privileged := (act.filter fun t => !(m.thread t).h && l.any fun x => isPrivileged x.2 && s.takes i x.2 t).map fun t =>
      (t, ({ cause := 32, xpc := i.pc } : Trap))
    let div := match m.limbs with
      | none => []
      | some n =>
        let byClause := ((i.cand.map fun t => t / n).eraseDups).filter fun k =>
          let ts := i.cand.filter fun t => t / n == k && (m.thread t).live
          ts.any (· ∈ act) && ts.any fun t => !(t ∈ act)
        let byWord := if i.header.cls != .C || !byClause.isEmpty then [] else s.chainSplits i l act
        ((byClause ++ byWord).eraseDups.flatMap fun k => (i.cand.filter fun t => t / n == k && (m.thread t).live).map fun t =>
          (t, ({ cause := 42, xpc := i.pc, xdet := clean (wn k), detail := k } : Trap)))
    let all := wait ++ privileged ++ div
    let cause (t : Nat) : Option Nat := (all.find? fun e => e.1 ∈ m.integer t).map (·.2.cause)
    i.cand.filterMap fun t => all.find? fun e => e.1 == t && some e.2.cause == cause t

/-- 13 R241: the comparator that a thread of a candidate matches at the clause: the first in number, where several match (log 121). -/
def State.comparator (s : State) (i : Issue) (t : Nat) : Option Nat :=
  match s.team i.tk, s.thread i.tk i.g t with
  | some m, some th =>
    if th.h || th.skip then none else
    ((s.core (coreOf i.tk)).cmps.find? fun e =>
      let c := e.2
      c.addr == i.pc && c.ctx == m.ctx && c.filter.getLsbD i.g && i.g < 16 &&
        (c.filter.getLsbD 24 || m.queue == some (field c.filter.toNat 16 8))).map (·.1)
  | _, _ => none

/-! The end of a clause. -/

/-- 13 R240: stepped threads are Halted again at their boundary. -/
def State.endStep (s : State) (tk g : Nat) (ts : List Nat) : State :=
  overAll ts (fun s t =>
    match s.thread tk g t with
    | some th =>
      if th.step then
        (s.modThread tk g t fun th => { th with step := false, halted := !th.exited }).modGroup tk g fun m =>
          { m with stepped := sadd m.stepped t }
      else s
    | none => s) s

/-- The steps of a team's threads that have taken a trap since another state end. -/
def State.endSteps (s old : State) (tk : Nat) : State :=
  overAll ((s.team tk).map (·.groups) |>.getD []) (fun s (g, (gr : Group)) =>
    s.endStep tk g ((gr.th.filter fun e => e.2.exited || ((old.thread tk g e.1).map (·.pc)) != some e.2.pc).map (·.1))) s

/-- Is a condition of a thread still to be met (11 R200)? -/
def State.stillWaits (s : State) (tk g : Nat) (c : WaitOn) : Bool :=
  match s.team tk with
  | none => false
  | some m => match c with
    | .bar n phase => (m.bar n).phase == phase
    | .tb k par => (tget m.tbs k {}).phase == par
    | .rsv k => (s.core (coreOf tk)).rsv.any fun r => r.tk == tk && r.g == g && r.k == k
    | .cc .. | .regang .. => true

/-- Threads enter Waiting at the end of a clause; in a bound group their companions with them (17 R286). -/
def State.enterWaits (s : State) (i : Issue) : State :=
  match s.team i.tk with
  | none => s
  | some m =>
    let all := i.waits ++ i.regang.map fun (t, d) => (t, [WaitOn.regang i.pc d])
    let s := overAll all (fun s (t, cs) =>
      let cs := cs.filter fun c => !i.met.contains (t, c) && s.stillWaits i.tk i.g c
      if cs.isEmpty then s else s.modThread i.tk i.g t fun th => match th.st with
        | .ready => { th with st := .waiting cs m.wdClock }
        | .waiting old d => { th with st := .waiting (old ++ cs) d }
        | .exited => th) s
    s.modGroup i.tk i.g fun gr =>
      if gr.limbs.isNone then gr else
      { gr with th := gr.th.map fun (t, th) =>
          (t, if th.st == .ready && t ∈ i.cand && (gr.integer t).any fun u => !(gr.thread u).conds.isEmpty
              then { th with st := .waiting [] m.wdClock } else th) }

/-- Traps that follow every word of a clause (13 R231; 27 R409). -/
def State.deliverAfter (s : State) (i : Issue) : State :=
  let s := s.modCur fun j => { j with after := [] }
  let pcOf (t : Nat) : Nat := ((s.thread i.tk i.g t).getD {}).pc
  s.trapAll i.tk i.g (tkeys i.after) fun t =>
    let (cause, xaddr, xdet, widx) := tget i.after t default
    { cause := cause, xpc := pcOf t, widx := widx, xaddr := xaddr.toNat, xdet := xdet, addr := xaddr.toNat,
      hdr := some i.pc }

/-- 13 R227: release the holds of a group whose peers are all held under one key; a Halted thread's as well (28 R414). -/
def State.regangTest (s : State) (tk g : Nat) : State :=
  match s.group tk g with
  | none => s
  | some m =>
    let keyOf (th : Thread) : Option Nat := th.conds.findSome? fun c => match c with | .regang k _ => some k | _ => none
    let free := m.notExited.filter fun t =>
      let th := m.thread t
      match keyOf th with
      | none => false
      | some k => (m.liveThreads.filter fun u => (m.thread u).wb == th.wb && (m.thread u).cd == th.cd).all fun u =>
          keyOf (m.thread u) == some k
    if free.isEmpty then s else
    s.modGroup tk g fun m => m.release free fun c => match c with | .regang .. => true | _ => false

/-- The end of the clause being issued, after its last word. -/
def State.finishClause (s : State) : State :=
  match s.cur with
  | none => s
  | some i =>
    let gone (s : State) (t : Nat) : Bool := ((s.thread i.tk i.g t).getD {}).exited
    let s := overAll (i.cand.filter fun t => !(t ∈ i.moved)) (fun s t =>
      if gone s t then s else s.modThread i.tk i.g t fun th => { th with pc := i.next }) s
    let s := s.deliverAfter i
    match s.cur with
    | none => s
    | some i =>
      let s := s.enterWaits i
      let s := { s with issues := s.issues.tail }
      let s := s.modCore (coreOf i.tk) fun c => { c with latch := c.latch.filter fun d => !(d.tk == i.tk && d.g == i.g && !d.started) }
      let s := s.endStep i.tk i.g i.cand
      overAll i.cand (fun s t => s.modThread i.tk i.g t fun th =>
        if th.haltPend then { th with haltPend := false, halted := !th.exited } else th) s

/-! The event. -/

/-- The slot that a granted candidate takes on each of its slices (01 R28, R29; 05 R81): the marks of the candidates that it passes end,
and the Ready threads it passes count one more. -/
def State.takeSlot (s : State) (i : Issue) : State :=
  let core := coreOf i.tk
  let part := i.g % 4
  let on (t : Nat) : Bool := i.cand.any fun u => u / 4 == t / 4
  let s := s.modCore core fun c => { c with slices := (slicesOf i.cand).foldl (fun l n =>
    tset l (8 * part + n) { tget l (8 * part + n) {} with granted := some s.dt }) c.slices }
  { s with teams := s.teams.map fun (tk, (m : Team)) => (tk, if coreOf tk != core then m else
      { m with groups := m.groups.map fun (g, (gr : Group)) => (g, if g % 4 != part then gr else
        let ended := ((gr.th.filter fun e => on e.1).map (·.2.yielded)).filter (· ≠ 0)
        { gr with th := gr.th.map fun (t, (th : Thread)) => (t, { th with
            yielded := if ended.contains th.yielded then 0 else th.yielded
            passed := if on t && th.isReady then th.passed + 1 else th.passed }) }) }) }
/-- 05 R80 steps 4 to 7 for an eligible candidate that is granted. -/
def State.issueClause (s : State) (i : Issue) (l : List (Nat × Instr)) : State :=
  let i := { i with id := 8 * s.dt + i.cand.headD 0 / 4 + 1 }
  let each (s : State) (f : Thread → Thread) : State := overAll i.cand (fun s t => s.modThread i.tk i.g t f) s
  let s := each (s.takeSlot i) fun th => { th with
    lastIssue := s.dt, held := [], fetched := none, passed := 0, yielded := if i.header.yield then i.id else 0 }
  let s := s.modTeam i.tk fun m => { m with started := true }
  let s := if (s.slot i.tk).st == .starting then s.setSlot i.tk { s.slot i.tk with st := .running } else s
  let hits := i.cand.filterMap fun t => (s.comparator i t).map fun n => (t, n)
  if !hits.isEmpty then
    let s := s.trapAll i.tk i.g (hits.map (·.1)) fun t =>
      { cause := 47, xpc := i.pc, xaddr := i.pc, addr := i.pc, xdet := clean (wn (((hits.find? (·.1 == t)).map (·.2)).getD 0)) }
    s.endStep i.tk i.g (i.cand.filter fun t => ((s.thread i.tk i.g t).getD {}).pc ≠ i.pc || ((s.thread i.tk i.g t).getD {}).exited)
  else
    let pr (t : Nat) : PBool := ((s.thread i.tk i.g t).getD {}).predN i.header.p.toNat i.header.pn
    let s := s.killAll i.tk i.g (i.cand.filter fun t => (pr t).poison) 26 i.pc
    let dead (t : Nat) : Bool := ((s.thread i.tk i.g t).getD {}).exited
    let act := i.cand.filter fun t => (pr t).val && !dead t
    let fails := s.failures i l act
    if !fails.isEmpty then
      let ts := fails.map (·.1)
      let s := s.trapAll i.tk i.g ts fun t => ((fails.find? (·.1 == t)).map (·.2)).getD { cause := 30, xpc := i.pc }
      s.endStep i.tk i.g (i.cand.filter fun t => t ∈ ts || dead t)
    else
      let s := each s fun th => if th.h then th else { th with skip := false }
      let s := { s with issues := { i with live := act } :: s.issues }
      if act.isEmpty then s.finishClause else s

/-- CLAUSE_ISSUE (05 R80): what the candidate with lowest thread `lead` does at its clause boundary, if anything. -/
def State.clauseIssue (s : State) (tk g lead : Nat) : Option State :=
  match s.group tk g with
  | none => none
  | some gr =>
    if !s.groupOpen tk g then none else
    match gr.cands.find? fun c => c.headD 32 == lead with
    | none => none
    | some c =>
      match s.prepare tk g c with
      | none => none
      | some (.held s') => if s' == s then none else some s'
      | some (.taken s') => some (s'.endSteps s tk)
      | some (.go i l s') =>
        if s.granted tk g c then some (s'.issueClause i l) else
        let s' := s'.markHeld tk g c []
        if s' == s then none else some s'
def execClauseIssue (tk g lead : Nat) (s : State) : Host.Outcome State Fault Refusal := .next ((s.clauseIssue tk g lead).getD s)

/-- REGANG_DEADLINE (13 R227): a held thread whose deadline has passed becomes Ready alone. -/
def State.regangDue (s : State) (th : Thread) : Bool := th.conds.any fun c => match c with | .regang _ d => d < s.dt | _ => false
def execRegangDeadline (tk g t : Nat) (s : State) : Host.Outcome State Fault Refusal :=
  .next (match s.thread tk g t with
  | some th => if s.regangDue th then s.modGroup tk g fun m => m.release [t] fun c => match c with | .regang .. => true | _ => false else s
  | none => s)

/-- Does a word read the tile store? -/
def readsStore (x : Instr) : Bool := match x with | .tsRd _ | .fragLd _ => true | _ => false
/-- The next word of a clause in progress. -/
def Issue.nextInstr (i : Issue) : Option Instr := (decodeNext i.header.cls i.words).map (·.1)
/-- Does a clause in progress go on: nothing stops its core or its slices (25 R380, R383, R387, R393), and it does not stand at a
rendezvous? -/
def State.clauseGoes (s : State) (i : Issue) : Bool :=
  let core := coreOf i.tk
  (s.core core).stop ≤ s.dt && (tget s.clusters (core / 8) {}).stop ≤ s.dt &&
    (slicesOf i.cand).all (fun n => (tget (s.core core).slices (8 * (i.g % 4) + n) {}).stop ≤ s.dt) && !s.waitsInLatch i
/-- Can its next word be made? Within a tick a core's reads of its tile store come before its writes (15 R262), and the reservation of the
lower team slot before that of a higher one (R250). -/
def State.wordReady (s : State) (i : Issue) : Bool :=
  let isRsv (j : Issue) : Bool := match j.nextInstr with | some (.tsRsv _) => true | _ => false
  s.clauseGoes i && !(i.nextInstr.any readsStore && (s.core (coreOf i.tk)).tsWrote == some s.dt) &&
    !(isRsv i && s.issues.any fun j => coreOf j.tk == coreOf i.tk && j.tk < i.tk && isRsv j && s.clauseGoes j)

/-- 15 R268: a clause in progress that stands at a rendezvous for want of deposits is watched as one held at step 3 is. -/
def State.markLatch (s : State) : State :=
  overAll s.issues (fun s i =>
    if !(i.rest.any fun x => (mmaOf x).isSome) then s else
    let seq := ((s.group i.tk i.g).getD {}).gseq
    s.markHeld i.tk i.g i.live (if s.waitsInLatch i && !s.deposited i.tk i.g seq then [(4, seq)] else [])) s
/-- 28 R414: what holds a Halted thread at step 3 may be over. -/
def State.retestHalted (s : State) : State :=
  let l := s.teams.flatMap fun (tk, m) => m.groups.flatMap fun (g, x) =>
    (x.th.filter fun e => e.2.halted && !e.2.held.isEmpty).map fun e => (tk, g, e.1, e.2)
  overAll l (fun s (tk, g, t, th) => match th.fetched with
    | some (pc, h :: ws) => match decodeClause h ws with
      | .ok (hd, l) =>
        let latch := (th.held.filter fun x => x.2.1 == 4 && !s.deposited tk g x.2.2).map (·.2)
        let i : Issue := { tk := tk, g := g, pc := pc, header := hd, cand := [t], live := [t], words := ws }
        s.markHeld tk g [t] (match s.holdOf i l with | .held k => k | _ => latch)
      | .error _ => s
    | _ => s) s

/-- Step records of groups whose stepped threads have all come to their boundary (13 R240; 27 R410). -/
def State.stepDone (s : State) : State :=
  let gs := s.teams.flatMap fun (tk, m) => m.groups.filterMap fun (g, gr) =>
    if !gr.stepped.isEmpty && !gr.th.any (·.2.step) then some (tk, g, gr) else none
  overAll gs (fun s (tk, g, gr) =>
    let pcOf (t : Nat) : Nat := if (gr.thread t).exited then 0 else (gr.thread t).pc
    let pcs := sortNat ((gr.stepped.map pcOf).eraseDups)
    let s := s.modGroup tk g fun m => { m with stepped := [], notStepped := 0 }
    let s := s.modTeam tk fun m => { m with stepdone := m.stepdone ||| (1 <<< g) }
    overAll pcs (fun s pc => s.mboxMake tk g 3 (gr.stepped.filter fun t => pcOf t == pc) gr.notStepped.toNat 0 pc) s) s

/-- The holds that a step may have ended (13 R227). -/
def State.regangTestAll (s : State) : State :=
  let gs := s.teams.flatMap fun (tk, m) => m.groups.filterMap fun (g, gr) =>
    if gr.th.any fun e => e.2.conds.any fun c => match c with | .regang .. => true | _ => false then some (tk, g) else none
  overAll gs (fun s (tk, g) => s.regangTest tk g) s

end Sys2Proof.Machine
end

