-- ==== Sys2Proof/Machine/Slice.lean ====
section
/-! DEFINITION. Accesses under way: the strike quarantine (07 R125; 25 R381), reads, writes and atomics at home slices
(07 R121-R127, R137, R141; 12 R217), revocations, acknowledgements, fills (07 R124, R126-R128, R132, R145; 17 R297), completion
points (05 R95), the visibility fence (11 R199) and remote timeouts (29 R424). -/

namespace Sys2Proof.Machine

/-! Leaving the core (07 R125; 25 R381). -/

/-- 07 R122: have the earlier stores of spill or link traffic to an address been performed? -/
def State.spillFree (s : State) (id : Nat) (a : Access) : Bool :=
  (s.before id).all fun x => !(x.2.isSpill && x.2.shares a && x.2.va == a.va &&
    match x.2.stage with | .core | .net _ _ | .parked _ | .retracted => true | _ => false)
/-- The other limbs of an integer that a limb access is of (17 R297). -/
def State.limbMates (s : State) (id : Nat) (a : Access) : Tbl Access :=
  if a.limb.isNone then [] else s.accs.filter fun x => x.1 != id && x.2.op == a.op && x.2.limb == a.limb
/-- Does a hold of another limb of its integer, or its park, hold a limb access as well? -/
def State.limbHeld (s : State) (id : Nat) (a : Access) : Bool :=
  (s.limbMates id a).any fun x => x.2.parked || (x.2.stage == .core && !x.2.returned && s.held x.1 x.2)
/-- Are the other limbs of its integer ready to leave with a limb store? -/
def State.limbsReady (s : State) (id : Nat) (a : Access) : Bool :=
  !s.limbHeld id a && (s.limbMates id a).all fun x => x.2.stage != .core || (x.2.entered && s.wordFree x.1 x.2 && s.leavesInOrder x.1 x.2)
/-- May an access or command leave its core or engine now? -/
def State.leaveDue (s : State) (id : Nat) (a : Access) : Bool :=
  a.stage == .core && a.dt + Config.quarantine ≤ s.dt && !s.behindPark id a && s.limbsReady id a &&
    match a.kind with
    | .command c => (match c with
      | .enq .. | .weight .. => true
      | .collStart _ | .collRearm .. | .collReady .. => s.releaseReady id a && s.threadsAcked id a)
    | .writeback => !(s.accs.any fun x => x.2.isWrite && x.2.space == .g && x.2.tk == a.tk && x.2.g == a.g && x.2.key / 128 == a.key / 128)
    | .spill => a.isSpill && s.spillFree id a
    | _ => a.quarantined && a.entered && s.wordFree id a && s.leavesInOrder id a

/-- An access sets out for its home slice under a new causal id. -/
def State.sendOut (s : State) (id : Nat) (a : Access) : State :=
  let (cid, s) := s.newCid a.src
  let (t, s) := s.transit a.src a.key
  s.modAcc id fun a => { a with stage := .net t (portOf a.src a.key), cid := cid }

/-- A class E command takes effect where it is addressed (19 R325-R328). -/
def State.performCommand (s : State) (id : Nat) (a : Access) (c : ECmd) : State :=
  let s := { s with accs := terase s.accs id }
  match c with
  | .enq qn addr graph =>
    let q := if qn == 0 then (s.ctx a.ctx).ownQueue else qn
    let (cid, s) := s.newCid a.src
    { s with enqs := s.enqs ++ [{ tenant := a.tenant, q := q, ctx := a.ctx, addr := addr, graph := graph, team := (s.team a.tk).map Team.who,
                                  parent := (s.team a.tk).bind (·.launch), op := a.op, cid := cid }] }
  | .collStart t => s.collArm a t false 0
  | .collRearm t v => s.collArm a t true (BitVec.ofNat 64 v)
  | .collReady e t => s.collReadyAt a e t
  | .weight k w => (s.setTenant a.tenant (let t := s.tenant a.tenant; { t with weights := tset t.weights k w })).partDone a.op

/-- The mailbox record of a number that is in the quarantine, with its core. -/
def State.mboxWaiting (s : State) (id : Nat) : Option (Nat × MRec) :=
  s.cores.findSome? fun (c, k) => (k.mboxOut.find? fun r => r.id == id).map fun r => (c, r)

/-- STRIKE_QUARANTINE_EXPIRY: an access, a command or a mailbox record leaves its core; the limb stores of an integer leave together. -/
def execStrikeQuarantineExpiry (id : Nat) (s : State) : Host.Outcome State Fault Refusal :=
  .next (match tget? s.accs id with
  | some a =>
    if !s.leaveDue id a then s else
    (match a.kind with
    | .command c => s.performCommand id a c
    | _ => match a.owner, a.space with
      | .copy cid g job, .sh => { s with accs := terase s.accs id }.storeJob cid g job
      | _, _ => overAll (s.limbMates id a) (fun s x => if x.2.stage == Stage.core then s.sendOut x.1 x.2 else s) (s.sendOut id a)).settle a.src
  | none =>
    match s.mboxWaiting id with
    | some (c, r) =>
      if s.dt < r.dt + Config.quarantine || (s.core c).mboxOut.head?.any (·.id != id) then s else
      (s.modCore c fun k => { k with mboxOut := k.mboxOut.filter (·.id != id) }).mboxPut c r
    | none => s)

/-! At the home slice. -/

/-- Does an access read at its home slice by a step of its own: loads and prefetches? -/
def Access.reads (a : Access) : Bool := a.isLoad || (match a.kind with | .prefetch _ => true | _ => false)
/-- Is a line that is read leased to its reader (07 R123): not for a prefetch to the home slice (13 R244)? -/
def Access.leases (a : Access) : Bool := !isScratch a.key && a.src < 288 && (match a.kind with | .prefetch l1 => l1 | _ => true)
/-- HOME_SLICE_READ (07 R121, R123; 12 R217): a load or fill request performed at the slice in its turn. -/
def State.readDue (s : State) (id : Nat) (a : Access) : Bool := a.reads && a.space != .sh && s.isFirst id a
def State.performRead (s : State) (id : Nat) (a : Access) : State :=
  let line := a.key / 128
  let cause := s.sliceCause a
  let sound := cause == 0 && (s.line line).acc.isNone
  let cached := a.leases && sound
  let le := s.dt + s.leaseLen a.key
  let s := if isScratch a.key || 288 ≤ a.src || !sound then s else
    let s := s.bringIn line
    let l := s.line line
    s.setLine line { l with maxLE := if cached then max l.maxLE le else l.maxLE }
  let (t, s) := s.transit a.src a.key
  let (n, s) := s.fresh
  let words := s.lineWords line
  let v := s.bytes a.key a.width
  let bad := s.anyMarked a.key a.width
  let own := s.ownedBy line a.src
  s.modAcc id fun a => { a with stage := .back t, perf := n, cause := cause, fill := words, value := v, vpois := bad,
                                own := own, le := if cached then s.skewDown a.key le else 0 }
def execHomeSliceRead (id : Nat) (s : State) : Host.Outcome State Fault Refusal :=
  .next (match tget? s.accs id with
  | none => s
  | some a => if s.readDue id a then s.performRead id a else s)

/-- 17 R297: the limb stores of the integer of one. -/
def State.limbStores (s : State) (a : Access) : Tbl Access :=
  s.accs.filter fun x => a.limb.isSome && x.2.isStore && x.2.op == a.op && x.2.limb == a.limb
/-- Is a limb store not to be written, as a limb of its integer has met a cause at its slice or would? -/
def State.limbBarred (s : State) (a : Access) : Bool := a.returned || (s.limbStores a).any fun x => s.sliceCause x.2 ≠ 0
/-- No limb of the integer is written from now on. -/
def State.barLimbs (s : State) (a : Access) : State :=
  overAll (tkeys (s.limbStores a)) (fun s id => s.modAcc id fun x => { x with returned := true }) s

/-- The bytes that an engine's access puts into its line: its own and those that go with it. -/
def Access.parts (a : Access) : List (Nat × List Byte × List Bool) := (a.key, a.data, a.pois) :: a.more
/-- 11 R191: a word that the parts of one write cover whole loses its poison mark, unless a part poisons it. -/
def State.clearWhole (s : State) (a : Access) : State :=
  if a.more.isEmpty then s else
  let line := a.key / 128
  let covered (b : Nat) : Bool := a.parts.any fun p => p.1 ≤ b && b < p.1 + p.2.1.length
  let poisons (w : Nat) : Bool := a.parts.any fun p => p.2.2.zipIdx.any fun (x, i) => x && p.1 / 4 * 4 + 4 * i == w
  let s := (List.range 32).foldl (fun s i =>
    let w := 128 * line + 4 * i
    if (List.range 4).all (fun k => covered (w + k)) && !poisons w then s.mark w false else s) s
  s.setLine line { s.line line with zero := s.zeroLine line }
/-- HOME_SLICE_WRITE (07 R126, R127, R141; 13 R244; 19 R303): a store, a word of spill or link traffic, an engine write, a counter's add,
or a line to be written back, performed in its turn. -/
def State.writeDue (s : State) (id : Nat) (a : Access) : Bool :=
  (match a.kind with | .store | .spill | .engine | .count | .writeback => true | _ => false) && a.space != .sh && s.isFirst id a &&
    (match a.kind with | .writeback => true | _ => s.lineFree (a.key / 128))
def State.performWrite (s : State) (id : Nat) (a : Access) : State :=
  let line := a.key / 128
  let cause := s.sliceCause a
  match a.kind with
  | .writeback =>
    let s := if cause == 11 then s else s.setLine line { s.line line with dirty := false }
    s.reply id a [] 0
  | _ =>
    if cause ≠ 0 then (s.barLimbs a).reply id { a with cause := cause } [] 0 else
    match a.kind with
    | .store =>
      if s.limbBarred a then s.barLimbs a |>.reply id a [] 0 else
      let (revs, gwct, s) := s.writeAt a.key a.data [] (some a.src) true
      s.reply id a revs gwct
    | .spill =>
      let (revs, gwct, s) := s.writeAt a.key a.data a.pois none false
      s.reply id a revs gwct
    | .count =>
      if s.anyMarked a.key 8 then s.reply id { a with cause := 17 } [] 0 else
      let (revs, gwct, s) := s.writeAt a.key (leBytes 8 (s.dword a.key + 1)) [] none false
      s.reply id a revs gwct
    | _ =>
      let (revs, gwct, s) := a.parts.foldl (fun (rs, g, s) (k, d, p) =>
        let (r, g', s) := s.writeAt k d p none false
        (rs ++ r, max g g', s)) (([] : List Revoke), 0, s)
      (s.clearWhole a).reply id a revs gwct
def execHomeSliceWrite (id : Nat) (s : State) : Host.Outcome State Fault Refusal :=
  .next (match tget? s.accs id with
  | none => s
  | some a => if s.writeDue id a then (s.performWrite id a).ccTestAll (some (a.key / 128)) else s)

/-- HOME_SLICE_ATOMIC (07 R137; 11 R192-R194): the read and the write of an atomic as one step. -/
def State.atomicDue (s : State) (id : Nat) (a : Access) : Bool := a.isAtom && a.space != .sh && s.isFirst id a && s.lineFree (a.key / 128)
def State.performAtomic (s : State) (id : Nat) (a : Access) (op : AtomOp) : State :=
  let cause := s.sliceCause a
  if cause ≠ 0 then s.reply id { a with cause := cause } [] 0 else
  let old := s.bytes a.key a.width
  let bad := s.anyMarked a.key a.width
  let a := { a with value := old, vpois := bad }
  let line := a.key / 128
  let idle (s : State) : State :=
    let l := s.line line
    let gwct := if isScratch a.key then s.dt else max s.dt l.maxLE
    (s.setLine line { l with lastWrite := some s.dt }).reply id a [] gwct
  if bad then idle s else
  match atomNew op a.width (leNat old) (leNat a.data) (leNat a.cmp) with
  | none => idle s
  | some v =>
    let (revs, gwct, s) := s.writeAt a.key (leBytes a.width v) [] (some a.src) false
    s.reply id a revs gwct
def execHomeSliceAtomic (id : Nat) (s : State) : Host.Outcome State Fault Refusal :=
  .next (match tget? s.accs id with
  | none => s
  | some a =>
    match a.kind with
    | .atom op => if s.atomicDue id a then (s.performAtomic id a op).ccTestAll (some (a.key / 128)) else s
    | _ => s)

/-! Revocations (07 R126, R127). -/

/-- OWNERSHIP_REVOCATION: a revocation reaches its core, whose L1 clears the owned flags it names, or leaves for its device; the core
confirms it. -/
def State.revokeDue (s : State) (a : Access) (r : Revoke) : Bool :=
  a.stage == .performed && !r.applied && r.arrive ≤ s.dt && s.inOrder r.core r.line r.perf
def execOwnershipRevocation (id core : Nat) (s : State) : Host.Outcome State Fault Refusal :=
  .next (match tget? s.accs id with
  | none => s
  | some a =>
    match a.revs.find? fun r => r.core == core && s.revokeDue a r with
    | none => s
    | some r =>
      let (t, s) := s.transit core (128 * r.line)
      let s := { s with cores := tmod s.cores core fun c =>
        { c with l1 := tmod c.l1 r.line fun x => { x with owned := x.owned.filter fun w => !r.words.contains w } } }
      let s := if isPeer core then { s with outbox := s.outbox ++ [.revoke a.cid core r.line r.words] } else s
      s.modAcc id fun a => { a with revs := a.revs.map fun q => if q == r then { r with applied := true, arrive := t } else q })
/-- REVOCATION_CONFIRMATION: the confirmation reaches the slice; the last one lets the acknowledgement leave. -/
def State.confirmDue (s : State) (a : Access) (r : Revoke) : Bool := a.stage == .performed && r.applied && r.arrive ≤ s.dt
def execRevocationConfirmation (id core : Nat) (s : State) : Host.Outcome State Fault Refusal :=
  .next (match tget? s.accs id with
  | none => s
  | some a =>
    match a.revs.find? fun r => r.core == core && s.confirmDue a r with
    | none => s
    | some r =>
      let revs := a.revs.filter (· != r)
      if revs.isEmpty then s.reply id a [] a.gwct else s.modAcc id fun a => { a with revs := revs })

/-! Late deliveries to a save record (21 R341). -/

/-- Do something to an access's team, which may stand in a save record: it is put in its core's first slot meanwhile. -/
def State.inTeam (s : State) (id : Nat) (a : Access) (f : State → Access → State) : State :=
  match a.save with
  | none => f s a
  | some k =>
    match tget? s.saves k with
    | none => let b := { a with save := none }; f { s with accs := tset s.accs id b } b
    | some v =>
      let tk := 16 * v.core
      let held := s.team tk
      let b := { a with tk := tk, save := none }
      let s := { s with teams := tset s.teams tk v.team, ops := v.ops.foldl (fun t e => tset t e.1 e.2) s.ops,
                        accs := tset s.accs id b }
      let s := f s b
      let team := (s.team tk).getD v.team
      let ops := v.ops.map fun e => (e.1, tget s.ops e.1 e.2)
      let s := { s with teams := match held with | some m => tset s.teams tk m | none => terase s.teams tk,
                        ops := v.ops.foldl (fun t e => terase t e.1) s.ops,
                        saves := tmod s.saves k fun v => { v with team := team, ops := ops, late := v.late.filter (· != id) } }
      match tget? s.accs id with
      | some c => { s with accs := tset s.accs id { c with tk := a.tk, save := a.save } }
      | none => s

/-! Acknowledgements (07 R126, R128; 11 R191, R195, R196). -/

/-- The end of an engine's write (19 R303, R309, R313), and the acknowledgement of another device's access (07 R126; 29 R424). -/
def State.engineAck (s : State) (id : Nat) (a : Access) (detail : Nat := 0) : State :=
  let s := s.dropAcc id a
  if isPeer a.src then { s with outbox := s.outbox ++ [.done a.cid a.gwct a.value] } else
  let lost (s : State) : State := if a.cause == 0 then s else s.engineFault a.src a.ctx a.who a.cause kPoison a.va detail
  match a.owner with
  | .copy cid g job =>
    match tget? s.copies cid with
    | some c => if a.cause == 0 then s.dropJob cid g job else s.discardJob cid g job a.cause 0 c a.va
    | none => s
  | .card k false => (lost s).cardSignal k
  | _ => lost s

/-- 07 R129: the words of an atomic leave its core's L1 copy, which a fill read before the atomic may have brought. -/
def State.dropAtom (s : State) (a : Access) : State :=
  if !a.isAtom then s else
  s.modCore a.src fun c => { c with l1 := (tmod c.l1 (a.key / 128) fun x =>
    { x with valid := x.valid.filter fun w => !(wordsOf a.key a.width).contains w }).filter fun e => !e.2.valid.isEmpty }
/-- The acknowledgement of a store, an atomic, a commit, a close, a `cnt.init` of threads, or a word of spill or link traffic. -/
def State.ack (s : State) (id : Nat) (a : Access) : State :=
  let s := s.dropAtom a
  if a.cause ≠ 0 then s.poisonAcc id a a.cause 0 else
  match a.kind with
  | .writeback | .spill => s.finishAcc id a
  | _ =>
    let s := s.modGroup a.tk a.g fun m => { m with gwctmax := max m.gwctmax (s.skewUp a.key a.gwct) }
    if a.isAtom && a.vpois then
      if a.recoverable then s.parkAccs a.tk a.g [(id, 10)] else s.poisonAcc id a 17 0
    else
      let s := if a.isAtom then s.deliver a a.value false else s
      let s := if a.isAcq && 3 ≤ a.scope then s.selfInvalidate a.src else s
      s.finishAcc id a

/-- ACKNOWLEDGEMENT: an acknowledgement reaches its core or engine. -/
def State.ackDue (s : State) (a : Access) : Bool :=
  !a.reads && (match a.stage with | .back t => t ≤ s.dt | _ => false) && s.inOrder a.src (a.key / 128) a.perf
def execAcknowledgement (id : Nat) (s : State) : Host.Outcome State Fault Refusal :=
  .next (match tget? s.accs id with
  | none => s
  | some a =>
    if !s.ackDue a then s
    else if 288 ≤ a.src then s.engineAck id a
    else (s.inTeam id a fun s a => s.ack id a).settle a.src)

/-! Fills and values (07 R123, R124, R132, R145; 17 R297). -/

/-- 07 R129: no later store of the load's own threads to its words has entered, so that the L1 copy does not hold it yet. -/
def State.noneAfter (s : State) (id : Nat) (a : Access) : Bool :=
  !(s.accs.any fun x => id < x.1 && x.2.isStore && x.2.entered && x.2.shares a && x.2.meets a)
/-- Does a load take its value in its core: from a usable L1 copy or from a store of the core? -/
def State.localHit (s : State) (id : Nat) (a : Access) : Bool :=
  a.isLoad && a.src < 288 && a.stage == .core && a.space == .g && !a.returned && !s.held id a && !s.limbHeld id a && s.atomFree id a && s.localFree id a &&
    s.noneAfter id a && ((s.l1Hit a).isSome || s.forwarded id a)
/-- May it take the value now (07 R436)? -/
def State.localDue (s : State) (id : Nat) (a : Access) : Bool := s.localHit id a && a.dt + 6 ≤ s.dt
/-- 25 R381: a load or fill request that nothing holds leaves its core or engine at once. -/
def State.readLeaves (s : State) (id : Nat) (a : Access) : Bool :=
  a.reads && a.stage == .core && a.space != .sh && !a.returned && !s.held id a && !s.limbHeld id a && s.atomFree id a && s.wordFree id a && !s.localHit id a
/-- The reads that may leave set out. -/
def State.sendReads (s : State) : State :=
  overAll (tkeys s.accs) (fun s id => match tget? s.accs id with
    | some a => if s.readLeaves id a then s.sendOut id a else s
    | none => s) s
/-- FILL_ARRIVAL: a value or fill reaches its core or engine, or a load is answered by its own core. -/
def State.fillDue (s : State) (id : Nat) (a : Access) : Bool :=
  a.reads && ((match a.stage with | .back t => t ≤ s.dt && !a.returned && s.inOrder a.src (a.key / 128) a.perf | _ => false) || s.localDue id a)

/-- The bytes and poison that a load takes from the words of its line, as its core's stores overlay them. -/
def State.loadValue (s : State) (id : Nat) (a : Access) (words : List PWord) : List Byte × Bool :=
  let ws := overlayLine (s.ownStores id a) (a.key / 128) words
  let bytes := ws.flatMap fun x => leBytes 4 x.val.toNat
  ((bytes.drop (a.key % 128)).take a.width, (wordsOf a.key a.width).any fun n => (ws.getD n (clean 0)).poison)

/-- 00 R3: L1 copies that a core has room for beside the shared memory of its teams. -/
def State.l1Room (s : State) (core : Nat) : Nat :=
  (768 * 1024 - ((s.teams.filter fun e => coreOf e.1 == core).map fun e => e.2.shSize).foldl (· + ·) 0) / 128
/-- 00 R3: a core keeps the copies it has room for, those whose leases end last (log 20). -/
def State.trimL1 (s : State) (core : Nat) : State :=
  let l1 := (s.core core).l1
  let extra := l1.length - s.l1Room core
  if extra == 0 then s else
  let out := ((sortBy (fun x y => decide (x.2.le ≤ y.2.le)) l1).take extra).map (·.1)
  s.modCore core fun c => { c with l1 := c.l1.filter fun e => !out.contains e.1 }

/-- Install a fill in its core's L1 (07 R124), unless a self-invalidation has dropped it (R145). -/
def State.install (s : State) (a : Access) : State :=
  if a.drop || a.le == 0 || (match a.kind with | .prefetch l1 => !l1 | _ => false) then s else
  let all : Access := { a with lanes := [] }
  let words := overlayLine (s.ownStores 0 all) (a.key / 128) a.fill
  (s.modCore a.src fun c => { c with l1 := tset c.l1 (a.key / 128) { le := a.le, words := words, valid := List.range 32, owned := a.own } }).trimL1
    a.src

/-- A limb load whose integer's values are all back: each limb of d takes its value, or all are poison, or all are loaded again
(17 R297). -/
def State.limbDone (s : State) (a : Access) : State :=
  let all := s.accs.filter fun x => x.2.isLoad && x.2.op == a.op && x.2.limb == a.limb
  if !all.all (·.2.returned) then s else
  let met := all.filter fun x => x.2.limbCause ≠ 0
  let poisons := met.any fun x => x.2.limbCause ≠ 10
  if !poisons && !met.isEmpty then
    let s := overAll all (fun s x => s.modAcc x.1 fun y => { y.again with dt := s.dt }) s
    s.parkAccs a.tk a.g (met.map fun x => (x.1, 10))
  else
    -- 18 R300: a limb that met a park cause is recorded as well
    let s := overAll met (fun s x => s.fault x.2.tk x.2.g x.2.lanes x.2.limbCause kPoison x.2.va x.2.pc 0) s
    let s := overAll all (fun s x => (s.deliver x.2 x.2.value poisons).finishAcc x.1 x.2) s
    if a.isAcq && 3 ≤ a.scope then s.selfInvalidate a.src else s

/-- A load's value has come to its core. -/
def State.loadDone (s : State) (id : Nat) (a : Access) (v : List Byte) (bad : Bool) : State :=
  if a.limb.isSome then
    let a := { a with returned := true, value := v, vpois := bad }
    { s with accs := tset s.accs id a }.limbDone a
  else if a.cause ≠ 0 then s.poisonAcc id a a.cause 0
  else if bad then
    if a.recoverable then
      (s.modAcc id fun a => { a with stage := .core, value := [], vpois := false }).parkAccs a.tk a.g [(id, 10)]
    else s.poisonAcc id a 17 0
  else
    let s := if a.isAcq && 3 ≤ a.scope then s.selfInvalidate a.src else s
    (s.deliver a v false).finishAcc id a

/-- An engine's bytes have come (19 R309, R313). -/
def State.engineFill (s : State) (id : Nat) (a : Access) : State :=
  let s := { s with accs := terase s.accs id }
  match a.owner with
  | .copy cid g job =>
    match tget? s.copies cid with
    | some c =>
      let bad : List Bool := (List.range a.width).map fun i => (a.fill.getD ((a.key + i) % 128 / 4) (clean 0)).poison
      let z := s.pieceSlice cid g job a.va
      if a.cause ≠ 0 then (s.sliceFault cid z a.cause a.va 0 c).putPiece cid g job a.va (s.poisonPiece a.width)
      else if bad.contains true && a.recoverable then
        let s := s.putPiece cid g job a.va .todo
        -- a slice that is held already makes this read again with the rest, once it goes on
        if ((s.slice cid z).bind (·.held)).isSome then s else s.holdSlice cid z 10 a.va (g, job, some (a.va : Int)) c
      else
        let s := if bad.contains true then s.sliceFault cid z 17 a.va 0 c else s
        s.putPiece cid g job a.va (.got a.value bad (some s.dt))
    | none => s
  | _ => s

def execFillArrival (id : Nat) (s : State) : Host.Outcome State Fault Refusal :=
  .next (match tget? s.accs id with
  | none => s
  | some a =>
    if !s.fillDue id a then s
    else if 288 ≤ a.src then (s.engineFill id a).copyWork
    else if !a.isLoad then (s.inTeam id a fun s a => (s.install a).finishAcc id a).settle a.src
    else
      let words := match a.stage, s.l1Hit a with
        | .core, some c => c.words
        | .core, none => List.replicate 32 (clean 0)
        | _, _ => a.fill
      let (v, bad) := s.loadValue id a words
      let s := if a.stage == .core then s else s.install a
      (s.loadDone id a v bad).settle a.src)

/-! Accesses from outside the cores and engines, performed where they are made. -/

/-- An access of the outside, performed now at each line of its bytes: a store of a core of another device, or an engine write. It is
acknowledged as any other (07 R126, R141). -/
def State.outsideWrite (s : State) (src key : Nat) (data : List Byte) (kind : AKind := .engine) (packet : Option Nat := none) : State :=
  overAll (lineRuns key data.length) (fun s (a, n) =>
    let (id, s) := s.fresh
    let (cid, s) := match packet with | some c => (c, s) | none => s.newCid src
    let x : Access := { src := src, kind := kind, key := a, width := n, data := (data.drop (a - key)).take n, dt := s.dt, entered := true,
                        stage := .net s.dt (portOf src a), cid := cid }
    let s := { s with accs := tset s.accs id x }
    (s.performWrite id x).ccTestAll (some (a / 128))) s

/-! Fault queues (23 R371, R372): their entries are engine writes (R359; log 93). -/

/-- The key of the entry FQHEAD. -/
def Ctx.fqEntry (c : Ctx) : Nat :=
  c.fqbase.toNat % 2 ^ 48 + 64 * (if c.fqsize == 0 then 0 else c.fqhead.toNat % c.fqsize.toNat)
/-- 23 R371: write a fault record at entry FQHEAD, advance FQHEAD and raise the interrupt. -/
def State.fqWrite (s : State) (ctx : Nat) (r : Rec) : State :=
  let c := s.ctx ctx
  let s := s.outsideWrite 768 c.fqEntry (r.body ++ leBytes 8 0)
  let s := s.modCtx ctx fun c => { c with fqhead := c.fqhead + 1 }
  s.irq c.tenant 16
/-- 23 R372: is a record kept while its queue is full or disabled: a park or a failed item? -/
def Rec.kept (r : Rec) : Bool := r.b0 / 256 % 256 == 0 || r.b0 / 256 % 256 == 5
/-- Is a fault queue full or disabled? -/
def Ctx.fqShut (c : Ctx) : Bool := c.fqsize == 0 || c.fqFull
/-- 23 R372: deliver a fault record to its context's queue, keep it waiting, or drop and count it. A record waits as well for the line of
its entry (12 R217). -/
def State.fqPut (s : State) (ctx : Nat) (r : Rec) : State :=
  let c := s.ctx ctx
  if c.fqShut && !r.kept then s.setCtx ctx { c with fqdrop := c.fqdrop + 1 }
  else if c.fqShut || !c.fqwait.isEmpty || !s.clearWrite 768 c.fqEntry 64 then s.setCtx ctx { c with fqwait := c.fqwait ++ [r] }
  else s.fqWrite ctx r
/-- The records that wait are delivered in order while there is room. -/
def State.fqRoom (s : State) (ctx : Nat) : State :=
  let rec go (n : Nat) (s : State) : State :=
    match n with
    | 0 => s
    | n + 1 =>
      let c := s.ctx ctx
      match c.fqwait with
      | [] => s
      | r :: rest =>
        if c.fqShut then (if r.kept then s else go n (s.setCtx ctx { c with fqwait := rest, fqdrop := c.fqdrop + 1 }))
        else if !s.clearWrite 768 c.fqEntry 64 then s
        else go n ((s.setCtx ctx { c with fqwait := rest }).fqWrite ctx r)
  go (s.ctx ctx).fqwait.length s
/-- The records that wait for a line. -/
def State.fqRetry (s : State) : State := overAll (tkeys (s.ctxs.filter fun e => !e.2.fqwait.isEmpty)) (fun s c => s.fqRoom c) s

/-! Leases, completion points, visibility fences, evictions, timeouts. -/

/-- LEASE_EXPIRY (07 R123). -/
def execLeaseExpiry (core line : Nat) (s : State) : Host.Outcome State Fault Refusal :=
  .next (match tget? (s.core core).l1 line with
  | some x => if x.le ≤ s.dt then s.modCore core fun c => { c with l1 := terase c.l1 line } else s
  | none => s)

/-- SLOT_COMPLETION (05 R95): an instruction whose parts are done leaves its wait slot, and its registers are pending no more. -/
def execSlotCompletion (op : Nat) (s : State) : Host.Outcome State Fault Refusal :=
  .next (match tget? s.ops op with
  | none => s
  | some o =>
    if o.left ≠ 0 then s else
    { s with ops := terase s.ops op }.modGroup o.tk o.g fun m => { m with ws := tset m.ws o.slot (tget m.ws o.slot 0 - 1) })

/-- VFENCE_RELEASE (07 R136; 11 R199): between clauses of the group, every store and atomic acknowledged, and every commit and close as
well, whose acknowledgements raise GWCTMAX too (log 98). -/
def State.vfenceDue (s : State) (tk g : Nat) : Bool :=
  match s.group tk g with
  | none => false
  | some m => m.vfence && m.gwctmax < s.dt && !(s.issues.any fun i => i.tk == tk && i.g == g) &&
      !(s.accs.any fun x => x.2.tk == tk && x.2.g == g && ((x.2.isWrite && x.2.space != .sh) || x.2.isCommit))
def execVfenceRelease (tk g : Nat) (s : State) : Host.Outcome State Fault Refusal :=
  .next (if s.vfenceDue tk g then s.modGroup tk g fun m => { m with vfence := false } else s)

/-- LINE_EVICTION (07 R121): a line leaves its slice for memory; owners, leases and an open accumulator stay. -/
def execLineEviction (line : Nat) (s : State) : Host.Outcome State Fault Refusal :=
  .next (let l := s.line line
    if l.present && l.acc.isNone then s.setLine line { l with present := false, zero := false, dirty := false } else s)

/-- REMOTE_TIMEOUT (29 R424; 23 R375): an access of another device's memory, or of the host's, has had no answer within 2^20 ticks:
cause 18. -/
def State.remoteLate (s : State) (a : Access) : Bool :=
  (isRemote a.key || isHost a.key) && a.space == .g && a.dt + 2 ^ 20 ≤ s.dt && (a.isLoad || a.isWrite || a.isEngine || a.isSpill) &&
    (match a.stage with | .parked _ | .retracted | .core => false | _ => true)
def execRemoteTimeout (id : Nat) (s : State) : Host.Outcome State Fault Refusal :=
  .next (match tget? s.accs id with
  | none => s
  | some a =>
    if !s.remoteLate a then s else
    let a := { a with cause := 18 }
    if 288 ≤ a.src then (if a.isLoad then s.engineFill id a else s.engineAck id a).copyWork
    else if a.isLoad then (s.loadDone id a [] false).settle a.src
    else (s.inTeam id a fun s a => s.ack id a).settle a.src)

end Sys2Proof.Machine
end

