-- ==== Sys2Proof/Machine/Resolve.lean ====
section
/-! DEFINITION. Parks and their resolution (23 R365-R367; 24 R376, R377), invalidations (23 R359-R364), room in the fault queue
(23 R372), and the kill of a whole team (21 R340; 23 R366). -/

namespace Sys2Proof.Machine

/-! Accesses made again (11 R196; 17 R297; 23 R362; 24 R376). -/

/-- Limb accesses of an integer made again, each at its own address; what parks them anew, if anything. The integer is decided whole with
those of its limbs that have left or returned since: a poison cause, or one that a returned limb has met, poisons it; a park cause takes it
back into the core (17 R297; 18 R300). -/
def State.retryLimbs (s : State) (l : List (Nat × Access)) : List (Nat × Nat) × State :=
  let ids := l.map (·.1)
  let others := (l.headD default).2 |> fun a => s.accs.filter fun x => x.2.op == a.op && x.2.limb == a.limb && !ids.contains x.1
  let (r, s) := s.limbClassify (l.map fun x => (x.2, (x.2.va : Int)))
  let rs := ids.zip r
  let met := rs.filter fun (_, _, c, _) => c ≠ 0
  let back := others.filter fun x => x.2.returned && x.2.limbCause ≠ 0
  if (met.any fun (_, _, c, _) => !isParkCause c) || (!met.isEmpty && back.any fun x => x.2.limbCause ≠ 10) then
    let s := overAll met (fun s (_, a, c, d) => s.fault a.tk a.g a.lanes c kPoison a.va a.pc d) s
    let s := overAll back (fun s (_, a) => s.fault a.tk a.g a.lanes a.limbCause kPoison a.va a.pc 0) s
    ([], overAll ((rs.map fun x => (x.1, x.2.1)) ++ others) (fun s (id, a) => (s.deliver a [] true).finishAcc id a) s)
  else
    let s := overAll rs (fun s (id, a, _, _) => s.modAcc id fun _ => { a with stage := .core, returned := false }) s
    let s := if met.isEmpty then s else overAll others (fun s (id, _) => s.modAcc id Access.again) s
    (met.map fun (id, _, c, _) => (id, c), s)

/-- One access made again: what parks it anew, if anything. -/
def State.retryOne (s : State) (id : Nat) (a : Access) : List (Nat × Nat) × State :=
  if a.kind == .spill && a.data.isEmpty then
    ([], { s with accs := terase s.accs id }.refill a.tk a.g (a.lanes.headD 0) a.va a.dst)
  else
    let (cause, detail, b, s) := s.classify a (if a.space == .g then (a.va : Int) else sext a.va 64)
    if cause == 0 then ([], s.modAcc id fun _ => { b with stage := .core })
    else if isParkCause cause then ([(id, cause)], s.modAcc id fun _ => { b with stage := .core })
    else ([], s.poisonAcc id b cause detail)

/-- Accesses of a group made again in program order; what parks anew takes a new PARKID. -/
def State.retryAccs (s : State) (tk g : Nat) (ids : List Nat) : State :=
  let (parks, _, s) := ids.foldl (fun (ps, done, s) id =>
    match tget? s.accs id with
    | none => (ps, done, s)
    | some a =>
      if id ∈ done then (ps, done, s)
      else if a.limb.isSome then
        let l := s.accs.filter fun x => (ids.contains x.1 || x.2.stage == .core) && !x.2.returned && x.2.op == a.op && x.2.limb == a.limb
        let (p, s) := s.retryLimbs l
        (ps ++ p, done ++ l.map (·.1), s)
      else
        let (p, s) := s.retryOne id a
        (ps ++ p, done, s)) (([] : List (Nat × Nat)), ([] : List Nat), s)
  (s.parkAccs tk g parks).settle (coreOf tk)

/-- Remove a park of a group. -/
def State.dropPark (s : State) (tk g : Nat) (p : Park) : State :=
  s.modGroup tk g fun m => { m with parks := m.parks.filter (· != p) }

/-- Threads of a group whose `cc.wait` a park holds (11 R210): those that wait on a counter in one of its pages. -/
def State.ccHeld (s : State) (tk g : Nat) (p : Park) : List Nat :=
  match s.group tk g with
  | none => []
  | some m => (m.th.filter fun e => e.2.conds.any fun c => match c with
      | .cc va _ _ => p.pages.any fun x => x.va / 4096 == va / 4096 && x.lanes.contains e.1
      | _ => false).map (·.1)

/-- A park of a group is resolved: its accesses are made again, or meet cause 24 (23 R366). -/
def State.resolvePark (s : State) (tk g : Nat) (p : Park) (fail : Bool) : State :=
  let mine := s.accs.filter fun x => x.2.tk == tk && x.2.g == g
  let parked := (mine.filter fun x => x.2.stage == .parked p.id).map (·.1)
  let later := (mine.filter fun x => x.2.stage == .core && x.2.space == .g && !x.2.isMark && s.held x.1 x.2).map (·.1)
  let waits := if p.kind == .access && parked.isEmpty then s.ccHeld tk g p else []
  let s := s.dropPark tk g p
  if fail then
    let pc (t : Nat) : Nat := ((s.thread tk g t).getD {}).pc
    -- a held fetch is made anew (log 103)
    let s := if p.kind != .fetch then s else overAll p.pages (fun s q => s.fault tk g q.lanes 24 kPoison q.va (pc (q.lanes.headD 0)) 0) s
    let s := overAll parked (fun s id =>
      match tget? s.accs id with
      | some a => s.poisonAcc id a 24 0
      | none => s) s
    let s := overAll waits (fun s t => (s.fault tk g [t] 24 kPoison ((p.pages.map (·.va)).headD 0) (pc t) 0).kill tk g t 26 0 (pc t) 0) s
    let s := s.retryAccs tk g later
    if p.kind == .access then s.returnAgain tk g true else s
  else
    let s := s.retryAccs tk g (sortNat (parked ++ later))
    (if p.kind == .access then s.returnAgain tk g false else s).ccTestAll none

/-! Killing a team (21 R340; 23 R366). -/

/-- Every thread of a team is killed and recorded; its parks end, and the accesses they held meet cause 24 (log 46). -/
def State.killTeam (s : State) (tk cause : Nat) : State :=
  match s.team tk with
  | none => s
  | some m =>
    let gs := tkeys m.groups
    let s := overAll gs (fun s g =>
      match s.group tk g with
      | none => s
      | some gr => overAll gr.notExited (fun s t => s.killOne tk g t cause 0 (gr.thread t).pc 0) s) s
    let held := (s.accs.filter fun x => x.2.tk == tk && x.2.parked).map (·.1)
    let s := overAll held (fun s id => match tget? s.accs id with | some a => s.poisonAcc id a 24 0 | none => s) s
    let s := s.modTeam tk fun m => { m with failed := true, drain := false, groups := m.groups.map fun (g, x) => (g, { x with parks := [], returns := [], vfence := false }) }
    let s := s.modCore (coreOf tk) fun c => { c with rsv := c.rsv.filter (·.tk != tk), latch := c.latch.filter fun d => d.tk != tk || d.started }
    (s.settle (coreOf tk)).rsvSettle (coreOf tk)

/-- 01 R43, 23 R366: the watchdog of a team is armed anew. -/
def State.rearmWatchdog (s : State) (tk : Nat) : State :=
  s.modTeam tk fun m => { m with
    bars := m.bars.map fun (n, b) => (n, { b with since := m.wdClock })
    groups := m.groups.map fun (g, x) => (g, { x with th := x.th.map fun (t, th) => (t, { th with
      held := th.held.map fun h => (m.wdClock, h.2)
      st := match th.st with | .waiting cs _ => .waiting cs m.wdClock | st => st }) }) }

/-! RESOLVE (23 R365, R366). -/

/-- The groups that a PARKID of a context parks. -/
def State.parkedGroups (s : State) (ctx pid : Nat) : List (Nat × Nat × Park) :=
  s.teams.flatMap fun (tk, m) => if m.ctx != ctx then [] else
    m.groups.flatMap fun (g, x) => (x.parks.filter (·.id == pid)).map fun p => (tk, g, p)

/-- 19 R303: an engine's held write is made again, or meets cause 24. -/
def State.engineRetry (s : State) (id : Nat) (a : Access) (fail : Bool) : State :=
  let a := { a with cause := 0, stage := .core }
  if fail then s.engineAck id { a with cause := 24 } else
  match { s with accs := terase s.accs id }.engineSend a with
  | (0, _, s) => s
  | (c, d, s) => s.engineAck id { a with cause := c } d
/-- The addresses of an item's reads that are failed, with that of its park where it is failed. -/
def failed (fail : Bool) (h : Option (Nat × Nat × Nat)) (l : List Nat) : List Nat :=
  match h with | some x => if fail then x.2.2 :: l else l | none => l
/-- An engine item under a PARKID is made again, or its access meets cause 24. -/
def State.resolveEngine (s : State) (ctx pid : Nat) (fail : Bool) : State :=
  let mine (h : Option (Nat × Nat × Nat)) : Bool := match h with | some x => x.1 == pid | none => false
  match s.copies.findSome? fun (cid, c) => if c.ctx != ctx then none else (c.slices.find? fun e => mine e.2.held).map fun e => (cid, e.1) with
  | some (cid, g) => (s.resumeSlice cid g (tget s.copies cid {}) fail).copyWork
  | none =>
  match s.accs.find? fun x => 288 ≤ x.2.src && x.2.ctx == ctx && x.2.stage == .parked pid with
  | some (id, a) => s.engineRetry id a fail
  | none =>
  if s.enqs.any fun e => e.ctx == ctx && mine e.park then
    { s with enqs := s.enqs.map fun e => if e.ctx == ctx && mine e.park then { e with park := none, fails := failed fail e.park e.fails } else e }
  else
  match s.insts.findSome? fun (k, i) => if i.ctx != ctx || !i.active then none else (i.entries.find? fun e => mine e.2.held).map fun e => (k, e.1) with
  | some (k, e) =>
    let s := s.modEntry k e fun x => { x with held := none, fails := match x.held with
      | some h => if fail then (x.heldWrite, h.2.2) :: x.fails else x.fails
      | none => x.fails }
    match s.centry k e with
    | some x => if x.st == .armed then s.flagRead k e else s
    | none => s
  | none =>
  match s.cards.find? fun (_, c) => c.ctx == ctx && mine c.held with
  | some (id, _) => s.modCard id fun c => { c with held := none, fails := failed fail c.held c.fails }
  | none =>
  match s.rearms.find? fun (_, r) => r.inst.ctx == ctx && mine r.park with
  | some (id, r) =>
    let s := { s with rearms := tset s.rearms id { r with park := none, fails := failed fail r.park r.fails } }
    if r.asker.isSome then s.answerQuery id else s.armOn id
  | none => s

/-- The team whose copy, queue entry, collective or engine write a PARKID holds. -/
def State.parkOwner (s : State) (ctx pid : Nat) : Option Nat :=
  let mine (h : Option (Nat × Nat × Nat)) : Bool := match h with | some x => x.1 == pid | none => false
  match s.copies.find? fun (_, c) => c.ctx == ctx && c.slices.any fun e => mine e.2.held with
  | some (_, c) => c.team
  | none =>
  match s.enqs.find? fun e => e.ctx == ctx && mine e.park with
  | some e => e.team.bind fun u => s.teamAt u.uid
  | none =>
  match s.insts.find? fun (_, i) => i.ctx == ctx && i.active && i.entries.any fun e => mine e.2.held with
  | some (_, i) => i.team.bind fun u => s.teamAt u.uid
  | none =>
  match s.rearms.find? fun (_, r) => r.inst.ctx == ctx && mine r.park with
  | some (_, r) => r.inst.team.bind fun u => s.teamAt u.uid
  | none =>
  match s.accs.find? fun x => 288 ≤ x.2.src && x.2.ctx == ctx && x.2.stage == .parked pid with
  | some (_, a) => s.teamAt a.who.uid
  | none => none

/-- Take a RESOLVE command: 0 replay, 1 fail, 2 kill. -/
def State.resolve (s : State) (ctx pid act : Nat) : State :=
  match s.parkedGroups ctx pid with
  | (tk, g, p) :: rest =>
    if p.kind == .watchdog then
      if act == 0 then
        (overAll ((tk, g, p) :: rest) (fun s x => s.dropPark x.1 x.2.1 x.2.2) s).rearmWatchdog tk |>.ccTestAll none
      else s.killTeam tk 51
    else if act == 2 then s.killTeam tk 51
    else s.resolvePark tk g p (act == 1)
  | [] =>
    match s.saves.find? fun (_, v) => v.ctx == ctx && ((v.team.groups.any fun e => e.2.parks.any (·.id == pid)) ||
        v.copies.any fun c => c.2.slices.any fun e => e.2.held.any (·.1 == pid)) with
    | some (k, _) => { s with saves := tmod s.saves k fun v => { v with resolves := v.resolves ++ [(pid, act)] } }
    | none =>
      let s := match act, s.parkOwner ctx pid with
        | 2, some tk => s.killTeam tk 51
        | _, _ => s
      s.resolveEngine ctx pid (act ≠ 0)

/-- A write of RESOLVE with GO: the register keeps PARKID and ACT. -/
def State.resolveWrite (s : State) (act : Nat) : State :=
  let pid := s.input.id % 2 ^ 16
  (s.modCtx s.input.ctx fun c => { c with resolve := wn (pid + 2 ^ 16 * act) }).resolve s.input.ctx pid act
def execResolveReplay (s : State) : Host.Outcome State Fault Refusal := .next (s.resolveWrite 0)
def execResolveFail (s : State) : Host.Outcome State Fault Refusal := .next (s.resolveWrite 1)
def execResolveKill (s : State) : Host.Outcome State Fault Refusal := .next (s.resolveWrite 2)

/-! The fault queue (23 R372). -/

/-- FQTAIL_WRITE. -/
def execFqtailWrite (s : State) : Host.Outcome State Fault Refusal :=
  .next ((s.modCtx s.input.ctx fun c => { c with fqtail := s.input.value.setWidth 32 }).fqRoom s.input.ctx)

/-! Invalidations (23 R359-R364). -/

/-- Does an invalidation cover a virtual page? -/
def Inv.covers (i : Inv) (page : Nat) : Bool := i.all || (i.first ≤ page && page < i.first + i.pages)
/-- Does it meet a leaf, by its first page and level? -/
def Inv.meets (i : Inv) (page l : Nat) : Bool := i.all || (i.first < page + 2 ^ (9 * l) && page < i.first + i.pages)
/-- Does it overlap the pages of a cached entry? -/
def Inv.overlaps (i : Inv) (e : TlbE) : Bool :=
  i.all || (i.first < (e.page + 1) * 2 ^ (9 * e.level) && e.page * 2 ^ (9 * e.level) < i.first + i.pages)

/-- Steps 1 to 3 of R361: the entries of die and core TLBs, last-page registers and instruction caches. -/
def State.dropEntries (s : State) (ctx : Nat) (i : Inv) : State :=
  let keepE (e : TlbE) : Bool := !(e.ctx == ctx && i.overlaps e)
  { s with dieTlb := s.dieTlb.map fun (d, l) => (d, l.filter keepE)
           cores := s.cores.map fun (c, k) => (c, { k with tlb := k.tlb.filter keepE, lastPage := k.lastPage.filter fun e => keepE e.2,
                                                           icache := k.icache.filter fun l => !(l.ctx == ctx && i.covers (l.line / 32)) }) }

/-- The valid leaves of a table and of those under it: first virtual page, level, entry. -/
def State.leaves (s : State) : Nat → Nat → Nat → List (Nat × Nat × Nat)
  | l, tbl, base =>
    (List.range (if l == 4 then 256 else 512)).flatMap fun n =>
      let e := s.dword (tbl + 8 * n)
      let page := base + n * 2 ^ (9 * l)
      if !e.testBit 0 || malformed e l then []
      else if e.testBit 1 then
        match l with
        | 0 => []
        | l + 1 => s.leaves l (field e 12 36 * 4096) page
      else [(page, l, e)]
/-- The frames, as keys / 4096, of the pages that an invalidation covers. -/
def State.invFrames (s : State) (ctx : Nat) (i : Inv) : List (Nat × Nat) :=
  (s.leaves 4 (s.ctx ctx).root.toNat 0).filterMap fun (page, l, e) =>
    let n := 2 ^ (9 * l)
    let first := if i.all then page else max page i.first
    let last := if i.all then page + n else min (page + n) (i.first + i.pages)
    if first < last then some (leafKey s.devno e l (4096 * first) / 4096, last - first) else none

/-- An access that an invalidation waits for: translated, and neither performed nor held under a park. -/
def State.invWaits (s : State) (id : Nat) (a : Access) : Bool :=
  match a.stage with
  | .core => !a.isMark && !(s.held id a && s.accs.any fun x => x.2.shares a && x.2.parked)
  | .net _ _ => true
  | _ => false
/-- Does an access of a context touch a page that an invalidation covers? -/
def Access.touches (a : Access) (ctx : Nat) (i : Inv) : Bool :=
  a.ctx == ctx && a.space == .g && !a.isMark &&
    ((if a.isCommit then [0, 1, 2, 3] else [0]).any fun k => i.covers (a.va / 4096 + k))

/-- 23 R360: GO is written. -/
def State.invStart (s : State) (move : Bool) : State :=
  let c := s.ctx s.input.ctx
  let v := s.input.value.toNat
  let all := v.testBit 32
  let n := v % 2 ^ 32
  if c.inv.isSome || (n == 0 && !all) then s.setCtx s.input.ctx { c with refused := true } else
  let i : Inv := { first := c.invva.toNat / 4096, pages := n, all := all, move := move, wait := [] }
  let s := s.dropEntries s.input.ctx i
  let wait := (s.accs.filter fun x => x.2.touches s.input.ctx i && s.invWaits x.1 x.2).map (·.1)
  s.setCtx s.input.ctx { c with invctl := BitVec.ofNat 64 (n + 2 ^ 32 * all.toNat + 2 ^ 33 * move.toNat),
                                root := if all then c.rootReg else c.root, inv := some { i with wait := wait } }
def execInvalidate (s : State) : Host.Outcome State Fault Refusal := .next (s.invStart false)
def execMoveInvalidate (s : State) : Host.Outcome State Fault Refusal := .next (s.invStart true)

/-- 23 R363: leases, L1 copies and ownership of some lines. -/
def State.revokeLines (s : State) (hit : Nat → Bool) : State :=
  { s with
    lines := s.lines.map fun (l, x) => (l, if hit l then { x with maxLE := 0, owners := [] } else x)
    cores := s.cores.map fun (c, k) => (c, { k with l1 := k.l1.filter fun e => !hit e.1 })
    accs := s.accs.map fun (id, a) => (id, match a.stage with
      | .back _ => if a.reads && hit (a.key / 128) then { a with drop := true } else a
      | _ => a) }
/-- Those of some frames. -/
def State.revokeFrames (s : State) (fs : List (Nat × Nat)) : State :=
  s.revokeLines fun line => fs.any fun f => 32 * f.1 ≤ line && line < 32 * (f.1 + f.2)

/-- The leaf of a virtual page has MIG clear, or is no leaf. -/
def State.migClear (s : State) (ctx page : Nat) : Bool :=
  match s.walkFrom (4096 * page) 4 (s.ctx ctx).root.toNat with | .ok (_, e) => !e.testBit 6 | .error _ => true
/-- 23 R364: a completed move invalidation notes the leaves with MIG set that it covers. -/
def State.moveBegins (s : State) (ctx : Nat) (i : Inv) : State :=
  let l := (s.leaves 4 (s.ctx ctx).root.toNat 0).filterMap fun (page, l, e) =>
    if e.testBit 6 && i.meets page l then some (page, l) else none
  s.modCtx ctx fun c => { c with moving := c.moving ++ l.filter fun x => !c.moving.contains x }
/-- 23 R364: after the third step of a page move, the new frame starts with no leases and no owners, an event records each page, and the
parks on it with a migrating cause are replayed. -/
def State.pageMoved (s : State) (ctx : Nat) (i : Inv) : State :=
  let due (cause va : Nat) : Bool := (cause == 2 || cause == 9) && i.covers (va / 4096) && s.migClear ctx (va / 4096)
  let moved := (s.ctx ctx).moving.filter fun (page, l) => i.meets page l && s.migClear ctx page
  let groups := s.teams.flatMap fun (tk, m) => if m.ctx != ctx then [] else m.groups.flatMap fun (g, x) =>
    x.parks.filterMap fun p => (p.pages.find? fun q => due q.cause q.va).map fun q => (tk, g, p, q.va)
  let saved := s.saves.flatMap fun (_, v) => if v.ctx != ctx then [] else
    (v.team.groups.flatMap fun e => e.2.parks.filterMap fun p => (p.pages.find? fun q => due q.cause q.va).map fun q => (p.id, q.va)) ++
    (v.copies.flatMap fun c => c.2.slices.filterMap fun e => (e.2.held.filter fun h => due h.2.1 h.2.2).map fun h => (h.1, h.2.2))
  let engine := (s.copies.flatMap fun (_, c) => if c.ctx != ctx then [] else c.slices.filterMap (·.2.held)) ++
    (s.accs.filterMap fun (_, a) => match a.stage with
      | .parked p => if 288 ≤ a.src && a.ctx == ctx then some (p, a.cause, a.va) else none
      | _ => none) ++
    (s.insts.flatMap fun (_, x) => if x.ctx != ctx then [] else x.entries.filterMap (·.2.held)) ++
    (s.cards.filterMap fun (_, c) => if c.ctx != ctx then none else c.held) ++
    (s.enqs.filterMap fun e => if e.ctx != ctx then none else e.park) ++
    s.rearms.filterMap fun (_, r) => if r.inst.ctx != ctx then none else r.park
  let rest := saved ++ (engine.filter fun h => due h.2.1 h.2.2).map fun h => (h.1, h.2.2)
  let inMoved (page : Nat) : Bool := moved.any fun (p, l) => p ≤ page && page < p + 2 ^ (9 * l)
  let pages := moved.map (·.1) ++
    (((groups.map fun x => x.2.2.2) ++ rest.map (·.2)).map (· / 4096)).eraseDups.filter fun p => !inMoved p
  let frames := pages.filterMap fun p => match s.walkFrom (4096 * p) 4 (s.ctx ctx).root.toNat with
    | .ok (l, e) => some (leafKey s.devno e l (4096 * p) / 4096 / 2 ^ (9 * l) * 2 ^ (9 * l), 2 ^ (9 * l))
    | .error _ => none
  let s := (s.revokeFrames frames).modCtx ctx fun c => { c with moving := c.moving.filter fun x => !moved.contains x }
  let s := overAll pages (fun s p => s.engineFault 768 ctx {} 63 kEvent (4096 * p) 0) s
  let s := overAll groups (fun s (tk, g, p, _) => s.resolvePark tk g p false) s
  overAll rest (fun s (pid, _) => s.resolve ctx pid 0) s

/-- INVALIDATION_DONE (23 R360, R361, R364; 29 R421: INVAL, and the fault interrupt of R360, log 33). -/
def State.invDue (s : State) (ctx : Nat) : Bool :=
  match (s.ctx ctx).inv with
  | none => false
  | some i => i.wait.all fun id => match tget? s.accs id with | some a => !(a.touches ctx i && s.invWaits id a) | none => true
def execInvalidationDone (ctx : Nat) (s : State) : Host.Outcome State Fault Refusal :=
  .next (match (s.ctx ctx).inv with
  | none => s
  | some i =>
    if !s.invDue ctx then s else
    let s := s.dropEntries ctx i
    let s := if i.move then (s.revokeFrames (s.invFrames ctx i)).moveBegins ctx i else s
    let s := s.modCtx ctx fun c => { c with inv := none, done := true, invseq := (c.invseq + 1) % 2 ^ 16 }
    let s := (s.irq (s.ctx ctx).tenant 17).irq (s.ctx ctx).tenant 16
    if i.move then s else s.pageMoved ctx i)

end Sys2Proof.Machine
end

