-- ==== Sys2Proof/Machine/SaveRecord.lean ====
section
/-! DEFINITION. The bytes of a save record (21 R343, R344) and how a restore reads them (R345). -/

namespace Sys2Proof.Machine

/-! CRC-32C (21 R343; log 104). -/

/-- The remainder after one more bit, least significant bit first. -/
def crc32cBit (c : Word) : Word := if c.getLsbD 0 then (c >>> 1) ^^^ 0x82F63B78 else c >>> 1
def crc32cByte (c : Word) (b : Byte) : Word := (List.range 8).foldl (fun c _ => crc32cBit c) (c ^^^ b.setWidth 32)
/-- CRC-32C of bytes. -/
def crc32c (l : List Byte) : Word := ~~~(l.foldl crc32cByte 0xFFFFFFFF)

/-! Writing (21 R343, R344). -/

/-- The types of the sections that a T9 writes; each but 12 is REQUIRED. -/
def sectionTypes : List Nat := (List.range 12).map (· + 1)
/-- Zero bytes up to a multiple of 64. -/
def pad64 (l : List Byte) : List Byte := l ++ List.replicate ((64 - l.length % 64) % 64) 0
/-- A section of a type, version 1. -/
def sectionBytes (typ : Nat) (payload : List Byte) : List Byte :=
  pad64 (leBytes 2 typ ++ leBytes 2 1 ++ [if typ == 12 then 0 else 1, 0, 0, 0] ++ leBytes 8 (16 + payload.length) ++ payload)
/-- The header with a CHECK. -/
def saveHeader (nsect len dt : Nat) (m : Team) (check : Word) : List Byte :=
  leBytes 4 0x58315352 ++ leBytes 2 1 ++ leBytes 2 0 ++ leBytes 4 nsect ++ leBytes 4 0 ++ leBytes 8 len ++ leBytes 8 dt ++
  leBytes 2 m.ctx ++ leBytes 2 m.tenant ++ leBytes 4 m.launchid.toNat ++ leBytes 4 m.x.toNat ++ leBytes 4 m.y.toNat ++
  leBytes 4 m.z.toNat ++ leBytes 4 check.toNat ++ leBytes 8 Config.devId.toNat
/-- A whole record of a team, its sections' payloads by type. -/
def recordBytes (payload : Tbl (List Byte)) (dt : Nat) (m : Team) : List Byte :=
  let body := payload.flatMap fun e => sectionBytes e.1 e.2
  let head := saveHeader payload.length (64 + body.length) dt m
  head (crc32c (head 0 ++ body)) ++ body

/-! Reading (21 R345). -/

/-- What a reader finds: the types of the sections it takes, or the section, by TYPE and VER, that refuses the record (0 and 0 where the
header does). -/
inductive RecordRead where
  | good (types : List Nat)
  | refused (typ ver : Nat)
deriving DecidableEq, Repr

/-- The sections of a record, from an offset: an unknown one is passed over unless it is REQUIRED; a known one is as long as its version
asks. What a known one holds is the team as it was saved, and a section that is missing refuses nothing (log 5). -/
def readSections (payload : Tbl (List Byte)) (b : List Byte) : Nat → Nat → List Nat → RecordRead
  | 0, _, found => .good found
  | n + 1, off, found =>
    let typ := le b off 2
    let ver := le b (off + 2) 2
    let len := le b (off + 8) 8
    let next := off + (len + 63) / 64 * 64
    let known := sectionTypes.contains typ && ver ≤ 1
    if b.length < off + max 16 len then .refused typ ver
    else if !known then
      if le b (off + 4) 1 % 2 == 1 then .refused typ ver else readSections payload b n next found
    else if len < 16 + (tget payload typ []).length then .refused typ ver
    else readSections payload b n next (sadd found typ)
/-- A record in memory: its header, its CHECK and its sections. -/
def readRecord (payload : Tbl (List Byte)) (b : List Byte) : RecordRead :=
  let zeroed := b.take 52 ++ leBytes 4 0 ++ b.drop 56
  if le b 0 4 ≠ 0x58315352 || le b 4 2 ≠ 1 || b.length < 64 || le b 16 8 ≠ b.length || (crc32c zeroed).toNat ≠ le b 52 4 then .refused 0 0
  else readSections payload b (le b 8 4) 64 []
/-- The bytes of the record at an address: as many as its header's LEN says, where HBM holds them and none is poisoned. -/
def State.recordAt (s : State) (addr : Nat) : List Byte :=
  let len := leNat (s.bytes (addr + 16) 8)
  if Config.hbmBytes < addr + len || s.anyMarked addr (max 64 len) then [] else s.bytes addr len

end Sys2Proof.Machine
end

