-- ==== Sys2Proof/Machine/Sched.lean ====
section
/-! DEFINITION. Scheduling and pre-emption: slots and bind records (21 R335-R340), the start and the retirement of teams (01 R22,
R33, R45, R46), the start of cards (19 R306, R318), drains, save records and restores (21 R341-R345, R437; 22 R347-R351). -/

namespace Sys2Proof.Machine

/-! Bind records (21 R337; 29 R427). -/

/-- The fields of a bind record. -/
def bindCtx (w0 : Dword) : Nat := field w0.toNat 0 16
def bindTenant (w0 : Dword) : Nat := field w0.toNat 16 5
def bindPrio (w0 : Dword) : Nat := field w0.toNat 21 3
def bindCount (w0 : Dword) : Nat := field w0.toNat 32 32
def bindCard (w2 : Dword) : Nat := w2.toNat % 2 ^ 56

/-- The bytes of the kernel card of a bind record, where the record is to be accepted. -/
def State.bindBytes (s : State) (core : Nat) (w0 w1 w2 : Dword) : Option (List Byte) :=
  if 1024 ≤ bindCtx w0 || (s.ctx (bindCtx w0)).tenant ≠ bindTenant w0 || bindCard w2 % 64 ≠ 0 || bindCount w0 == 0 then none else
  match s.readObj 768 (dieOf core) (bindCtx w0) (bindCard w2) 512 with
  | .busy | .bad .. => none
  | .bytes b =>
    let k := kcardOf (bindCard w2) b
    if le b 0 1 == 1 && cardCheck b == 0 && w1.toNat + bindCount w0 ≤ k.gx * k.gy * k.gz then some b else none
/-- 29 R427: are the bits of a die set in READY? -/
def State.dieReady (s : State) (die : Nat) : Bool := s.readyReg.getLsbD (2 + die) && s.readyReg.getLsbD (6 + die)
/-- The launch that a bind record belongs to: a card in the launcher, or one already bound without a queue. -/
def State.launchOf (s : State) (ctx addr count : Nat) : Option (Nat × Card) :=
  s.cards.find? fun (_, c) => c.ctx == ctx && c.addr == addr && c.ending == 0 && (c.st == .ready || c.st == .running) && count ≤ c.unbound &&
    match c.body with | .kernel _ => true | _ => false

/-- A record's words as the slot keeps them: reserved bits are 0 (00 R11). -/
def bindWords (w : Nat → Dword) : Nat → Dword
  | 0 => w 0 &&& 0xFFFFFFFF00FFFFFF
  | 2 => w 2 &&& 0x00FFFFFFFFFFFFFF
  | n => w n
/-- A bind record written now, none where its card's lines have to be waited for (12 R217). -/
def State.bindNow (s : State) : Option State :=
  let busy := s.readObj 768 (dieOf (coreOf s.input.tk)) (bindCtx (s.input.words.getD 0 0)) (bindCard (s.input.words.getD 2 0)) 512 == .busy
  if busy && (s.slot s.input.tk).st == .free then none else
  some (let tk := s.input.tk
    let slot := s.slot tk
    let w := bindWords (s.input.words.getD · 0)
    let refuse : State := s.setSlot tk { slot with status := 1 }
    if slot.st ≠ .free then refuse else
    match s.bindBytes (coreOf tk) (w 0) (w 1) (w 2) with
    | none => refuse
    | some b =>
      let ctx := bindCtx (w 0)
      let n := bindCount (w 0)
      let k := kcardOf (bindCard (w 2)) b
      let (launch, s) : Option Nat × State := match s.launchOf ctx (bindCard (w 2)) n with
        | some (id, c) =>
          if c.queue ≠ 0 && !s.dieReady (dieOf (coreOf tk)) then (none, s) else
          let s := if c.st == .ready then (s.cardWeights c).cardState id .running else s
          (some id, s.modCard id fun c => { c with unbound := c.unbound - n })
        | none =>
          let (id, s) := s.fresh
          let total := k.gx * k.gy * k.gz
          let c := cardOf (bindCard (w 2)) b
          let c : Card := { c with ctx := ctx, tenant := bindTenant (w 0), st := .running, left := total, unbound := total - n }
          (some id, { s with cards := tset s.cards id c }.cardWeights c)
      match launch with
      | none => refuse
      | some id => s.setSlot tk { st := .armed, w0 := w 0, w1 := w 1, w2 := w 2, w3 := w 3, card := k, launch := some id })
/-- BIND_RECORD_WRITE: into a slot of one of the cores c0 to c287 (00 R2), by verified firmware alone (29 R428). -/
def execBindRecordWrite (s : State) : Host.Outcome State Fault Refusal :=
  .next (if 288 ≤ coreOf s.input.tk || !s.fwRunning then s else s.orWait .bindRecordWrite s.bindNow)

/-! Admission (01 R22; 21 R335, R350). -/

/-- The groups of a kernel: role, allocated budget, entry. -/
def KCard.groupList (k : KCard) : List (Nat × Nat × Nat) :=
  k.roles.zipIdx.flatMap fun ((n, b, entry), r) => List.replicate n (r, 8 * ((b + 7) / 8), entry)
/-- What a team asks of its core: partition and budget of each group, shared bytes, transaction barriers, granules. -/
structure Need where
  groups : List (Nat × Nat)
  shared : Nat
  tbs : Nat
  granules : Nat
deriving DecidableEq, Repr, Inhabited
def KCard.need (k : KCard) : Need :=
  { groups := k.groupList.zipIdx.map fun ((_, ba, _), g) => (g % 4, ba), shared := 4096 * k.shu, tbs := k.tbn, granules := 0 }
def Team.need (m : Team) : Need :=
  { groups := (m.groups.filter fun e => !e.2.retired).map fun (g, x) => (g % 4, x.ba), shared := m.shSize, tbs := m.tbn, granules := m.granules }
/-- The resource that a team lacks on a core, as the slot's status names it, or 0. -/
def State.lack (s : State) (core : Nat) (n : Need) : Nat :=
  let here := (s.teams.filter fun e => coreOf e.1 == core).map fun e => e.2.need
  let all := n :: here
  let part (p : Nat) : List Nat := (all.flatMap (·.groups)).filterMap fun x => if x.1 == p then some x.2 else none
  let sum (l : List Nat) : Nat := l.foldl (· + ·) 0
  let lost := (s.core core).slices.filterMap fun (k, x) => if x.lost then some (k / 8) else none
  if (n.groups.any fun x => lost.contains x.1) || (List.range 4).any fun p => 1024 < sum (part p) then 2
  else if (List.range 4).any fun p => 8 < (part p).length then 3
  else if 2 ^ 19 < sum (all.map (·.shared)) then 4
  else if 64 < sum (all.map (·.tbs)) then 5
  else if s.freeGranules core < n.granules then 7
  else 0

/-! The start of a team (21 R338, R339). -/

/-- The lowest free spill set of a launch (19 R302). -/
def State.freeSet (s : State) (slot : Slot) : Option Nat :=
  let used := match slot.launch.bind fun id => tget? s.cards id with | some (c : Card) => c.setsUsed | none => []
  (List.range (used.length + 1)).find? fun m => m < slot.card.sets && !used.contains m
/-- The groups of a team take resident group slots of a core: each the lowest that is free in its partition (log 105). -/
def State.placeGroups (s : State) (core : Nat) (m : Team) : Team :=
  let here := (s.teams.filter fun e => coreOf e.1 == core).flatMap fun e =>
    (e.2.groups.filter fun x => !x.2.retired).map fun (g, x) => (g % 4, x.resident)
  let (groups, _) := m.groups.foldl (fun (l, used) (g, (x : Group)) =>
    if x.retired then (l ++ [(g, x)], used) else
    let n := ((List.range 8).find? fun n => !used.contains (g % 4, n)).getD 7
    (l ++ [(g, { x with resident := n })], (g % 4, n) :: used)) (([] : Tbl Group), here)
  { m with groups := groups }
/-- What an Armed slot's next team lacks. -/
def State.slotLack (s : State) (tk : Nat) (slot : Slot) : Nat :=
  let l := s.lack (coreOf tk) slot.card.need
  if l ≠ 0 then l else if slot.card.sets ≠ 0 && (s.freeSet slot).isNone then 6 else 0
/-- Has the next team of an Armed slot come to its time? -/
def State.slotTime (s : State) (slot : Slot) : Bool :=
  slot.st == .armed && slot.save.isNone && slot.w3.toNat + slot.card.stagger * slot.next ≤ s.dt
/-- Is its admission to be tested, and does it hold? -/
def State.slotAdmits (s : State) (tk : Nat) (slot : Slot) : Bool := s.slotTime slot && slot.retest && s.slotLack tk slot == 0
/-- 21 R338: has a team of the launch started on the die in this tick? -/
def State.startedNow (s : State) (tk : Nat) (launch : Option Nat) : Bool :=
  s.teams.any fun e => dieOf (coreOf e.1) == dieOf (coreOf tk) && e.2.launch == launch && e.2.startDt == s.dt
/-- 21 R338: is a slot before this one, of the same launch and die, also to start now? -/
def State.earlierSlot (s : State) (tk : Nat) (slot : Slot) : Bool :=
  s.cores.any fun (c, k) => dieOf c == dieOf (coreOf tk) && k.slots.any fun (n, x) =>
    16 * c + n < tk && x.launch == slot.launch && s.slotAdmits (16 * c + n) x

/-- A group as it is at launch (01 R33); its threads, which have not issued yet, count their age
from the team's start (log 40). -/
def freshGroup (dt : Nat) (k : KCard) (m g role ba entry : Nat) : Group :=
  { role := role, ba := ba, th := (List.range 32).map fun t => (t, { pc := entry, lastIssue := dt, srs := wn (32 * g + t + 1) }),
    spillBase := k.spillArea + k.spillSize * (16 * m + g), spillSize := k.spillSize,
    linkBase := k.linkArea + k.linkSize * (16 * m + g), linkSize := k.linkSize }
/-- 27 R400: a record of a team. -/
def State.teamRec (s : State) (tk typ f24 f32 f48 : Nat) : State :=
  s.emit (coreOf tk) { s.nameRec tk 0 [] ({ typ := typ, f24 := f24, f32 := f32, f48 := f48 } : Rec) with thread := 0xFFFF }

/-- The next team of a slot starts. -/
def State.startTeam (s : State) (tk : Nat) (slot : Slot) : State :=
  let k := slot.card
  let n := slot.w1.toNat + slot.next
  let spill := if k.sets == 0 then none else s.freeSet slot
  let (uid, s) := s.fresh
  let s := match slot.launch, spill with
    | some id, some x => s.modCard id fun c => { c with setsUsed := sadd c.setsUsed x }
    | _, _ => s
  let queue := match slot.launch.bind fun id => tget? s.cards id with | some (c : Card) => (if c.queue == 0 then none else some c.queue) | none => none
  let m : Team :=
    { card := k, uid := uid, launch := slot.launch, startDt := s.dt, queue := queue, launchid := k.cardid, n := n, x := wn (n % k.gx),
      y := wn (n / k.gx % k.gy), z := wn (n / k.gx / k.gy), ctx := bindCtx slot.w0, tenant := bindTenant slot.w0, prio := bindPrio slot.w0,
      hentry := k.hentry, hframe := k.hframe, tbn := k.tbn, shSize := 4096 * k.shu, wdPeriod := 2 ^ k.wdlog, spillSet := spill,
      groups := k.groupList.zipIdx.map fun ((r, ba, e), g) => (g, freshGroup s.dt k (spill.getD n) g r ba e) }
  let s := { s with teams := tset s.teams tk (s.placeGroups (coreOf tk) m) }
  let s := ((s.selfInvalidate (coreOf tk)).trimL1 (coreOf tk)).setSlot tk { slot with st := .starting, next := slot.next + 1, status := 0, retest := true }
  s.teamRec tk 4 k.addr (tk % 16) n

/-! The end of a team (01 R45, R46; 19 R314, R320, R327; 21 R340). -/

/-- GROUP_RETIRE: all threads Exited, all slots clear, every access acknowledged; no issue a replay could go back behind. -/
def State.groupRetireDue (s : State) (tk g : Nat) : Bool :=
  match s.group tk g with
  | none => false
  | some m => !m.retired && m.notExited.isEmpty && m.th.all (fun e => e.2.lastIssue + Config.quarantine ≤ s.dt) && m.ws.all (fun e => e.2 == 0) &&
      !(s.accs.any fun x => x.2.tk == tk && x.2.g == g) && !(s.ops.any fun x => x.2.tk == tk && x.2.g == g) &&
      !(s.issues.any fun i => i.tk == tk && i.g == g)
def execGroupRetire (tk g : Nat) (s : State) : Host.Outcome State Fault Refusal :=
  .next (if s.groupRetireDue tk g then s.modGroup tk g fun m => { m with retired := true } else s)

/-- Engine words that a retiring team leaves behind are discarded and recorded (27 R375, cause 62). -/
def State.discardWords (s : State) (tk : Nat) (m : Team) : State :=
  let events := ((s.ctx m.ctx).events.filter fun e => e.1 == m.uid).map (·.2.1)
  let words (q : Nat) : List Word := (tget m.qwait q []).map (·.2)
  let put (src : Nat) (s : State) (w : Word) : State :=
    s.engineFault src m.ctx m.who 62 kEvent 0 w.toNat
  let die := dieOf (coreOf tk)
  let s := overAll (words 1) (put (512 + die)) s
  let s := overAll events (put (collSrc die)) s
  let s := overAll (words 5) (put launcher) s
  s.modCtx m.ctx fun c => { c with events := c.events.filter fun e => e.1 != m.uid }

/-- 21 R340: what a slot does when its team has left it for good. -/
def State.slotNext (s : State) (tk : Nat) : State :=
  let slot := s.slot tk
  s.setSlot tk (if slot.next < bindCount slot.w0 then { slot with st := .armed, status := 0, retest := true, pend := [] }
                else { slot with st := .free, status := 0, pend := [], launch := none })
/-- A team's launch hears of it, and its spill set is free. -/
def State.teamGone (s : State) (m : Team) (failed : Bool) : State :=
  match m.launch with
  | none => s
  | some id =>
    let s := match m.spillSet with | some x => s.modCard id fun c => { c with setsUsed := sdel c.setsUsed x } | none => s
    s.launchTeamDone id failed
/-- A team retires (01 R46). -/
def State.retireTeam (s : State) (tk : Nat) : State :=
  match s.team tk with
  | none => s
  | some m =>
    let s := (s.teamRec tk 5 m.card.addr (tk % 16) m.n).discardWords tk m
    let s := { s with teams := terase s.teams tk }
    let s := s.modCore (coreOf tk) fun c => { c with latch := c.latch.filter (·.tk != tk), rsv := c.rsv.filter (·.tk != tk) }
    (((s.slotNext tk).teamGone m m.failed).rsvSettle (coreOf tk)).retestCore (coreOf tk) false
/-- The teams whose groups have all retired and whose copies are complete retire. -/
def State.retireTeams (s : State) : State :=
  let l := s.teams.filter fun (tk, m) => m.groups.all (·.2.retired) && !(s.copies.any fun c => c.2.team == some tk)
  overAll (tkeys l) (fun s tk => s.retireTeam tk) s

/-! Commands to a slot (21 R340). -/

/-- Teams of a slot's range that have not started are reported, and may be bound again. -/
def State.reportRest (s : State) (slot : Slot) : Option (Nat × Nat) × State :=
  let n := bindCount slot.w0 - slot.next
  if n == 0 || slot.launch.isNone then (none, s) else
  (some (slot.w1.toNat + slot.next, n), match slot.launch with
    | some id => s.modCard id fun c => { c with unbound := c.unbound + n }
    | none => s)
/-- A pre-empt (an area) or a kill (none) of a slot. -/
def State.slotCommand (s : State) (tk : Nat) (c : Option Nat) : State :=
  let slot := s.slot tk
  match slot.st with
  | .armed =>
    let (rest, s) := s.reportRest slot
    s.setSlot tk { slot with st := .free, launch := none, save := none, report := rest, status := 0 }
  | .starting => s.setSlot tk { slot with pend := slot.pend ++ [c] }
  | .running | .draining =>
    match c with
    | none => (s.setSlot tk { slot with st := .ending }).killTeam tk 51
    | some area =>
      if slot.st == .draining then s else
      (s.modTeam tk fun m => { m with drain := true }).setSlot tk { slot with st := .draining, drainAt := s.dt, area := area }
  | .free | .saving | .ending => s
def execPreemptCommand (s : State) : Host.Outcome State Fault Refusal := .next (s.slotCommand s.input.tk (some s.input.addr))
def execKillCommand (s : State) : Host.Outcome State Fault Refusal := .next (s.slotCommand s.input.tk none)
/-- Commands that came in Starting are taken at the first clause. -/
def State.slotPending (s : State) : State :=
  let l := s.cores.flatMap fun (c, k) => k.slots.filterMap fun (n, x) => if x.st == .running && !x.pend.isEmpty then some (16 * c + n, x) else none
  overAll l (fun s (tk, x) => x.pend.foldl (fun s c => s.slotCommand tk c) (s.setSlot tk { x with pend := [] })) s

/-! The drain (11 R215; 13 R246; 15 R279; 19 R329; 21 R341). -/

/-- An access that may be saved as it stands: parked, or held behind one that is. -/
def State.savable (s : State) (id : Nat) (a : Access) : Bool :=
  a.parked || (a.stage == .core && (a.isMark || s.held id a || (s.sameWord id a).any (·.parked)) &&
    s.accs.any fun x => x.2.parked && x.2.tk == a.tk && x.2.g == a.g)
/-- Has a team issued nothing that a replay could go back behind (25 R381, R382)? -/
def State.settledTeam (s : State) (tk : Nat) : Bool :=
  match s.team tk with
  | none => true
  | some m => m.groups.all fun e => e.2.th.all fun t => t.2.lastIssue + Config.quarantine ≤ s.dt
/-- 15 R279: a clause in progress of the team that waits for its partners of a rendezvous, none of its words made, stands at its header. -/
def State.atHeaders (s : State) (tk : Nat) : Bool :=
  s.issues.all fun i => i.tk != tk || (s.waitsInLatch i && i.words.length == i.header.n.toNat)
/-- DRAIN_COMPLETE. -/
def State.drained (s : State) (tk : Nat) : Bool :=
  (s.slot tk).st == .draining && s.settledTeam tk && s.atHeaders tk &&
    s.accs.all (fun x => x.2.tk != tk || s.savable x.1 x.2) &&
    !(s.copies.any fun c => c.2.team == some tk && c.2.started) &&
    (s.ops.all fun o => o.2.tk != tk || o.2.left ≠ 0)

/-- The key under which accesses of a saved team stand. -/
def lateKey (save : Nat) : Nat := 2 ^ 20 + save

/-- A copy as its save record keeps it: slices of a started one that have not completed are retracted, with what holds them; one that has
not started keeps its slices as they stand (19 R329). -/
def Copy.retract (c : Copy) : Copy :=
  if !c.started then c else
  { c with slices := c.slices.map fun (g, x) =>
      (g, if x.ended then x else { x with row := 0, off := 0, jobs := [], entered := [], held := none, heldAt := none, image := none }) }

/-- What becomes of an access of a team that is saved (21 R341, R437). -/
inductive Kept where
  /-- into the save record -/ | saved (a : Access)
  /-- into the save record, its entry in the core kept -/ | retracted (a : Access)
  /-- left to complete: its acknowledgement is late -/ | late (a : Access)
deriving DecidableEq, Repr
def Access.keep (a : Access) (k dt : Nat) (w : Who) : Kept :=
  let left : Access := { a with tk := lateKey k, save := some k, saveDt := dt, who := w }
  match a.stage with
  | .core | .parked _ => if a.isWrite && a.space != .sh then .retracted { a with entered := false } else .saved a
  | _ => match a.kind with | .load | .writeback => .saved a.again | _ => .late left

/-- 27 R410: a mailbox record of a kind for each group with a Halted thread. -/
def State.haltRecords (s : State) (tk kind : Nat) : State :=
  match s.team tk with
  | none => s
  | some m => overAll m.groups (fun s (g, x) =>
      let l := (x.th.filter fun e => e.2.halted).map (·.1)
      if l.isEmpty then s else s.mboxMake tk g kind l 0 0 (x.thread (l.headD 0)).pc) s

/-- 21 R341, R437: the accesses of a team that is saved: those for the record, with those whose acknowledgement will be late, by the SAVEDT
that `dt` gives. One that is retracted keeps its entry in the core, as one that its loads see only where it had entered. -/
def State.keepAccs (s : State) (tk k : Nat) (w : Who) (dt : Access → Nat) : Tbl Access × List Nat × State :=
  (s.accs.filter fun x => x.2.tk == tk).foldl (fun (l, late, s) (id, a) => match a.keep k (dt a) w with
    | .saved a => (l ++ [(id, a)], late, { s with accs := terase s.accs id })
    | .late a => (l, late ++ [id], { s with accs := tset s.accs id a })
    | .retracted b => (l ++ [(id, { b with ghost := some id })], late,
        { s with accs := tset s.accs id { a with stage := .retracted, tk := lateKey k, save := some k, op := none } }))
    (([] : Tbl Access), ([] : List Nat), s)
/-- Requests of the copies of a saved team are gone; for writes that were performed its card waits (07 R141). -/
def State.leaveCopies (s : State) (copies : Tbl Copy) (launch : Option Nat) : State :=
  let ofCopy (a : Access) : Bool := match a.owner with | .copy cid _ _ => (tget? copies cid).isSome | _ => false
  { s with
    accs := s.accs.filterMap fun (id, a) => if !ofCopy a then some (id, a) else
      match a.stage with
      | .performed | .back _ => if a.isLoad then none else some (id, { a with owner := match launch with | some c => .left c | none => .none })
      | _ => none
    copies := copies.foldl (fun t e => terase t e.1) s.copies }
/-- 21 R343; 25 R382: the bytes of a save record set out for its area, 4 KiB aligned, once the quarantine is over. -/
def State.writeRecord (s : State) (k addr : Nat) (b : List Byte) : State :=
  overAll (lineRuns addr b.length) (fun s (key, n) =>
    let (t, s) := s.transit 768 key
    let (cid, s) := s.newCid 768
    let (id, s) := s.fresh
    { s with accs := tset s.accs id { src := 768, kind := .engine, key := key, va := key, width := n, data := (b.drop (key - addr)).take n,
                                      dt := s.dt, entered := true, owner := .save k, cid := cid,
                                      stage := .net (t + Config.quarantine) (portOf 768 key) } }) s
/-- The slot moves to Saving: the team's state goes into its save record (21 R341-R344). -/
def State.saveTeam (s : State) (tk : Nat) : State :=
  match s.team tk with
  | none => s
  | some _ =>
    let s := s.haltRecords tk 4
    let slot := s.slot tk
    let (k, s) := s.fresh
    let s := s.modTeam tk fun m => { m with drain := false, groups := m.groups.map fun (g, x) =>
      let x := x.meet fun c => match c with | .regang .. => true | _ => false
      (g, { x with th := x.th.map fun (t, th) => (t, { th with held := [], fetched := none }) }) }
    let s := { s with issues := s.issues.filter (·.tk != tk) }
    let m := (s.team tk).getD {}
    let core := s.core (coreOf tk)
    let (kept, late, s) := s.keepAccs tk k m.who fun _ => s.dt
    let copies := s.copies.filter fun c => c.2.team == some tk
    let payload := sectionTypes.map fun t => (t, Config.savePayload k t)
    let record := recordBytes payload s.dt m
    let addr := slot.area % 2 ^ 48 / 4096 * 4096
    let v : Save := { addr := addr, core := coreOf tk, ctx := m.ctx, dt := s.dt, team := m, accs := kept,
                      ops := s.ops.filter fun o => o.2.tk == tk, copies := copies.map fun (id, c) => (id, c.retract), late := late,
                      cmps := core.cmps.filter fun e => e.2.ctx == m.ctx, wpts := core.wpts.filter fun e => e.2.ctx == m.ctx,
                      rsv := core.rsv.filter (·.tk == tk), record := record, payload := payload }
    let s := (s.teamRec tk 6 addr s.dt 0).leaveCopies copies m.launch
    let s := { s with ops := s.ops.filter fun o => o.2.tk != tk, saves := tset s.saves k v, teams := terase s.teams tk }
    let s := s.modCore (coreOf tk) fun c => { c with rsv := c.rsv.filter (·.tk != tk), latch := c.latch.filter (·.tk != tk) }
    let s := (s.setSlot tk { slot with st := .saving, saved := some k }).writeRecord k addr record
    (s.rsvSettle (coreOf tk)).retestCore (coreOf tk) false

def execDrainComplete (tk : Nat) (s : State) : Host.Outcome State Fault Refusal := .next (if s.drained tk then s.saveTeam tk else s)
/-- DRAIN_TIMEOUT: DRAINT has passed. A clause that stands at a rendezvous is saved at its header whatever words of it were made (15 R279;
log 116); other clauses in progress come to their boundaries. -/
def State.drainLate (s : State) (tk : Nat) : Bool :=
  (s.slot tk).st == .draining && (s.slot tk).drainAt + min (max s.draint 1200) (2 ^ 24) ≤ s.dt && s.settledTeam tk &&
    s.issues.all fun i => i.tk != tk || s.waitsInLatch i
def execDrainTimeout (tk : Nat) (s : State) : Host.Outcome State Fault Refusal := .next (if s.drainLate tk then s.saveTeam tk else s)

/-- Are writes on their way for a save record? -/
def State.saveWrites (s : State) (k : Nat) : Bool := s.accs.any fun x => x.2.owner == .save k
/-- SAVE_RECORD_WRITTEN: the record stands in memory, its writes acknowledged; the slot is Free and reports it. -/
def State.savedDue (s : State) (tk : Nat) : Bool :=
  (s.slot tk).st == .saving && ((s.slot tk).saved.any fun k => (tget? s.saves k).isSome && !s.saveWrites k)
def execSaveRecordWritten (tk : Nat) (s : State) : Host.Outcome State Fault Refusal :=
  .next (if !s.savedDue tk then s else
    let slot := s.slot tk
    let s := match slot.saved with
      | some k => { s with saves := tmod s.saves k fun v => { v with written := true } }
      | none => s
    let (rest, s) := s.reportRest slot
    let s := s.setSlot tk { slot with st := .free, launch := none, report := rest, status := 0 }
    -- 22 R349: its granules are free
    (s.rsvSettle (coreOf tk)).retestCore (coreOf tk) false)

/-! Late accesses and records that are given up (21 R340, R345, R437; 22 R351). -/

/-- 21 R437: the first of the retracted accesses of a record that is discarded is performed by the management core; the next follows its
acknowledgement. -/
def State.performNext (s : State) (k : Nat) (v : Save) : State :=
  match v.accs with
  | [] => s
  | (_, a) :: rest =>
    let (t, s) := s.transit 768 a.key
    let (id, s) := s.fresh
    let (cid, s) := s.newCid 768
    let kind : AKind := match a.kind with | .atom o => .atom o | _ => .engine
    { s with accs := tset s.accs id { a with src := 768, kind := kind, lanes := [], tk := noTeam, op := none, dst := none, entered := true, limb := none,
                                             stage := .net t (portOf 768 a.key), cid := cid, owner := .save k, who := v.team.who }
             saves := tmod s.saves k fun v => { v with accs := rest } }
/-- 21 R345; 22 R351: a record that will not be restored: its retracted accesses are to be performed in program order, those that a park
holds end, and its words from engines are discarded; its card hears of the failed team once nothing of it is on its way any more
(07 R141). -/
def State.giveUp (s : State) (k : Nat) (v : Save) : State :=
  let mine := v.accs.filter fun x => x.2.ghost.isSome
  let s := overAll (mine.filter fun x => x.2.parked) (fun s x => s.dropAcc x.1 x.2) s
  let s := s.discardWords (16 * v.core) v.team
  { s with saves := tmod s.saves k fun v => { v with refused := true, ops := [], copies := [], rsv := [], resolves := []
                                                     accs := mine.filter fun x => !x.2.parked
                                                     team := { launch := v.team.launch, spillSet := v.team.spillSet } } }
/-- What records that were given up still have performed; and their cards hear of it. -/
def State.savesTold (s : State) : State :=
  let l := s.saves.filter fun (k, v) => v.refused && !v.told && !s.saveWrites k
  let s := overAll l (fun s (k, v) => s.performNext k v) s
  overAll (l.filter fun (_, v) => v.accs.isEmpty && v.late.isEmpty)
    (fun s (k, v) => { s with saves := tmod s.saves k fun v => { v with told := true } }.teamGone v.team true) s
/-- 21 R345: a record is refused: recorded with the section's TYPE and VER, and its context marked. -/
def State.refuseRecord (s : State) (k : Nat) (v : Save) (typ ver : Nat) : State :=
  let s := s.emit 768 { typ := 0, b0 := 57 + 256 * kFail, launchid := v.team.launchid, x := v.team.x, y := v.team.y, z := v.team.z,
                        core := 0xFFFF, f24 := v.addr, f48 := 2 ^ 32 * (typ + 2 ^ 16 * ver), dt := s.dt, ctx := some v.ctx }
  let s := s.modCtx v.ctx fun c => { c with restoreFailed := true }
  let s := { s with saves := tmod s.saves k fun v => { v with refusal := some (typ, ver) } }
  if v.refused then s else s.giveUp k v

/-- LATE_ACCESS_LOST (22 R351): an access whose acknowledgement has not come within 2^24 ticks of SAVEDT. A record that is not restored
yet is given up; a restored team whose first clause has not issued leaves its slot, and one that runs is killed (log 106). -/
def State.lostDue (s : State) (k id : Nat) : Bool :=
  match tget? s.accs id with
  | some a => a.save == some k && !a.parked && a.stage != .retracted && a.saveDt + 2 ^ 24 ≤ s.dt
  | none => false
/-- A restored team leaves its slot before its first clause, its record given up (21 R340, R345). -/
def State.dropRestored (s : State) (tk : Nat) (m : Team) : State :=
  let (k, s) := s.fresh
  let (kept, late, s) := s.keepAccs tk k m.who fun a => if a.save.isSome then a.saveDt else s.dt
  let s := s.leaveCopies (s.copies.filter fun c => c.2.team == some tk) m.launch
  let v : Save := { core := coreOf tk, ctx := m.ctx, dt := s.dt, team := m, accs := kept, late := late, lost := true, written := true }
  let s := { s with teams := terase s.teams tk, ops := s.ops.filter fun o => o.2.tk != tk, saves := tset s.saves k v }
  let s := s.modCore (coreOf tk) fun c => { c with rsv := c.rsv.filter (·.tk != tk), latch := c.latch.filter (·.tk != tk) }
  let s := ((s.setSlot tk { s.slot tk with st := .free, launch := none, pend := [] }).modCtx m.ctx fun c => { c with restoreFailed := true }).giveUp k v
  (s.rsvSettle (coreOf tk)).retestCore (coreOf tk) false
def execLateAccessLost (save id : Nat) (s : State) : Host.Outcome State Fault Refusal :=
  .next (if !s.lostDue save id then s else
    match tget? s.accs id with
    | none => s
    | some a =>
      let s := s.emit 768 { typ := 0, b0 := 56 + 256 * kFail, launchid := a.who.launchid, x := a.who.x, y := a.who.y, z := a.who.z,
                            thread := 32 * a.g + a.lanes.headD 0, core := a.src, f24 := a.va, f32 := a.pc, f48 := maskOf a.lanes,
                            dt := s.dt, ctx := some a.ctx }
      let s := { s with accs := terase s.accs id }
      match tget? s.saves save with
      | some v =>
        let s := { s with saves := tmod s.saves save fun v => { v with lost := true, late := v.late.filter (· != id) } }
        if v.refused then s else s.giveUp save v
      | none =>
        match s.teamAt a.who.uid with
        | none => s
        | some tk =>
          match s.team tk with
          | none => s
          | some m => if (s.slot tk).st == .starting then s.dropRestored tk m
                      else (s.setSlot tk { s.slot tk with st := .ending }).killTeam tk 56)

/-! Restores (21 R339, R341, R342, R345; 22 R347, R350). -/

/-- What a restore finds at a record's address. -/
def State.recordRead (s : State) (v : Save) : RecordRead :=
  match v.refusal with
  | some (typ, ver) => .refused typ ver
  | none => if v.lost then .refused 10 1 else readRecord v.payload (s.recordAt v.addr)
/-- 21 R345: does the record name another device as its writer? -/
def State.foreign (s : State) (v : Save) : Bool := leNat (s.bytes (v.addr + 56) 8) ≠ Config.devId.toNat

/-- Accesses of a record in their new place, in program order: on its own core each keeps its number, and one that was retracted takes its
entry there again. -/
def State.placeAccs (s : State) (tk : Nat) (l : Tbl Access) (same : Bool) : Tbl Access × State :=
  l.foldl (fun (out, s) (id, (a : Access)) =>
    let b := { a with tk := tk, src := coreOf tk, dt := s.dt }
    if !same then
      let (n, s) := s.fresh
      (out ++ [(n, b)], { s with accs := tset s.accs n b })
    else
      let b := match a.ghost.bind fun g => tget? s.accs g with
        | some old => { b with entered := old.entered, enterNo := old.enterNo, ghost := old.ghost }
        | none => b
      (out ++ [(id, b)], { s with accs := tset s.accs id b })) (([] : Tbl Access), s)

/-- The debugger's command of a number to threads of a team (27 R412). -/
def State.debugCmd (s : State) (tk c gmask lmask : Nat) : State :=
  if c == 0 then s.dbgHalt tk gmask lmask else if c == 1 then s.dbgResume tk gmask lmask else s.dbgStep tk gmask lmask

/-- The clauses that a team's accesses and scalar registers name, in grant order: on another device, where DT is another, each has its place
among them for its number (01 R31). -/
def State.clauseRank (v : Save) (n : Nat) : Nat :=
  let l := v.accs.map (·.2.clause) ++ v.team.groups.flatMap fun e => e.2.sLast.map (·.2)
  (l.filter (· < n)).eraseDups.length
/-- A saved team is placed in a slot; `debug`: with the content of section 12; `foreign`: from another device's record (21 R345). A saved
comparator or watchpoint whose number is armed on the core is dropped (log 123). -/
def State.restoreTeam (s : State) (tk k : Nat) (v : Save) (debug foreign : Bool) : State :=
  let core := coreOf tk
  let same := core == v.core
  let m : Team := { v.team with startDt := s.dt, started := false, drain := false }
  let m : Team := if foreign then { m with groups := m.groups.map fun (g, x) => (g, { x with
    gwctmax := 0, sLast := x.sLast.map fun e => (e.1, State.clauseRank v e.2) }) } else m
  let s : State := { s with teams := tset s.teams tk (s.placeGroups core m), saves := terase s.saves k,
                            ops := v.ops.foldl (fun t e => tset t e.1 { e.2 with tk := tk }) s.ops,
                            accs := s.accs.map fun (id, a) => (id, if a.save == some k && a.stage != .retracted then { a with tk := tk } else a),
                            copies := v.copies.foldl (fun t e => tset t e.1 { e.2 with team := some tk, die := dieOf core }) s.copies }
  let kept := if foreign then v.accs.map fun (id, a) => (id, { a with clause := State.clauseRank v a.clause }) else v.accs
  let (placed, s) := s.placeAccs tk kept same
  let s := s.modCore core fun c => { c with rsv := c.rsv ++ v.rsv.map fun r => { r with tk := tk, dt := s.dt } }
  let s := if !debug then s else s.modCore core fun c => { c with
    cmps := v.cmps.foldl (fun t e => if (tget? t e.1).isNone then tset t e.1 e.2 else t) c.cmps
    wpts := v.wpts.foldl (fun t e => if (tget? t e.1).isNone then tset t e.1 e.2 else t) c.wpts }
  let s := ((s.selfInvalidate core).trimL1 core).setSlot tk
    { st := .starting, launch := m.launch, w0 := BitVec.ofNat 64 (m.ctx + 2 ^ 16 * m.tenant + 2 ^ 21 * m.prio) }
  let s := overAll (tkeys m.groups) (fun s g =>
    let ids := (placed.filter fun x => x.2.g == g && x.2.stage == .core && !x.2.isMark && !(x.2.isCache)).map (·.1)
    s.retryAccs tk g ids) s
  let s := overAll v.resolves (fun s (pid, act) => s.resolve v.ctx pid act) s
  let s := (s.rsvSettle core).haltRecords tk 5
  let s := if !debug then s else overAll v.cmds (fun s (c, t) =>
    let s := s.debugCmd tk c t.groups.toNat t.lanes.toNat
    { s with outbox := s.outbox ++ [.debugStatus 0] }) s
  (s.teamRec tk 7 v.addr v.dt 0).copyWork.ccTestAll none

/-- TEAM_START: the next team of an Armed slot, or a saved team. -/
def State.startDue (s : State) (tk : Nat) : Bool :=
  let slot := s.slot tk
  s.slotTime slot && slot.retest && (s.team tk).isNone &&
    (s.slotLack tk slot ≠ 0 || (!s.startedNow tk slot.launch && !s.earlierSlot tk slot))
/-- A record on another device's account waits for section 10 to be complete (21 R345). -/
def State.restoreDue (s : State) (tk k : Nat) : Bool :=
  let slot := s.slot tk
  match tget? s.saves k with
  | none => false
  | some v => v.written && (slot.st == .free || (slot.st == .armed && slot.save == some k && (slot.retest || v.refused))) && (s.team tk).isNone &&
      (!s.foreign v || v.refused || v.late.isEmpty) && !s.startedNow tk v.team.launch
def execTeamStart (tk : Nat) (save : Option Nat) (s : State) : Host.Outcome State Fault Refusal :=
  .next (let slot := s.slot tk
    if 288 ≤ coreOf tk then s else
    match save with
    | none =>
      if !s.startDue tk then s else
      let l := s.slotLack tk slot
      if l ≠ 0 then s.setSlot tk { slot with status := l, retest := false } else s.startTeam tk slot
    | some k =>
      match tget? s.saves k with
      | none => s
      | some v =>
        if !s.restoreDue tk k then s else
        match s.recordRead v with
        | .refused typ ver => (s.setSlot tk { slot with st := .free, save := none }).refuseRecord k v typ ver
        | .good types =>
          let l := s.lack (coreOf tk) v.team.need
          if l ≠ 0 then s.setSlot tk { slot with st := .armed, save := some k, status := l, retest := false, w0 := 0, next := 0, launch := none }
          else s.restoreTeam tk k v (types.contains 12) (s.foreign v))

/-! The start of a card (19 R306, R310, R318). -/

/-- The die that homes the first line of a card's tile table, or none where it is another device's. -/
def State.tableDie (s : State) (c : Card) (table : Nat) : Option Nat :=
  match s.xlateDie 0 c.ctx table .read with
  | .ok key _ => if isRemote key then none else some (homeDie key % 4)
  | _ => some 0
/-- What a Ready collective card finds: it may start, is refused, is held, or waits. -/
inductive Tried where
  | go (i : Inst) (counter : ObjRead) | refused (cause va detail : Nat) | held (cause va : Nat) | wait
deriving DecidableEq, Repr
def State.tryCollective (s : State) (id : Nat) (c : Card) (table : Nat) : Tried :=
  if c.held.isSome then .wait else
  if table % 64 ≠ 0 || 2 ^ 56 ≤ table then .refused 0 0 0 else
  match s.tableDie c table with
  | none => .refused 0 0 0
  | some die =>
    match s.readTable die c.ctx table c.fails with
    | .busy => .wait
    | .cause k va d => if isParkCause k then .held k va else .refused k va d
    | .bad _ => .refused 0 0 0
    | .ok i =>
      if !s.canArm i then .wait else
      match s.counterRead i c.fails with
      | .busy => .wait
      | .bad k va d => if isParkCause k then .held k va else .go { i with card := some id, tenant := c.tenant } (.bad k va d)
      | r => .go { i with card := some id, tenant := c.tenant } r
/-- CARD_START. -/
def State.cardStartDue (s : State) (id : Nat) : Bool :=
  match tget? s.cards id with
  | none => false
  | some c => c.st == .ready && c.ending == 0 && s.launcherUp && s.roomAt launcher && (match c.body with
    | .kernel _ => false
    | .copy _ => true
    | .collective t => s.tryCollective id c t ≠ .wait)
def execCardStart (id : Nat) (s : State) : Host.Outcome State Fault Refusal :=
  .next (match tget? s.cards id with
  | none => s
  | some c =>
    if !s.cardStartDue id then s else
    match c.body with
    | .kernel _ => s
    | .copy d => s.startCopyCard id c d
    | .collective t =>
      match s.tryCollective id c t with
      | .wait => s
      | .held k va =>
        let (pid, s) := s.newPark c.ctx
        (s.modCard id fun c => { c with held := some (pid, k, va) }).engineFault launcher c.ctx c.who k kPark va 0 pid
      | .refused k va d =>
        (if k == 0 then s else s.engineFault launcher c.ctx c.who k kFail va d).cardFinish id .refused 16
      | .go i r => (((s.modCard id fun c => { c with fails := [] }).cardWeights c).cardState id .running).armWith i r)

end Sys2Proof.Machine
end

