-- ==== Sys2Proof/Machine/Waits.lean ====
section
/-! DEFINITION. Waits: the wait-for records of every kind (27 R404; 28 R416), and the team watchdog (01 R43; 11 R201; 15 R268). -/

namespace Sys2Proof.Machine

/-- A wait: its source, what tells it from others (kind, place and object), and what its records hold (27 R404). -/
structure Wait where
  src : Nat
  key : List Nat
  recs : List Rec
deriving DecidableEq, Repr

/-- Bytes 0-3 of a wait-for record. -/
def waitB0 (kind chunk obj : Nat) : Nat := kind + 256 * (chunk % 256) + 65536 * (obj % 65536)
/-- Threads of a team, by index, whose conditions meet a test. -/
def Team.waiters (m : Team) (p : WaitOn → Bool) : List Nat :=
  m.groups.flatMap fun (g, x) => (x.waitersOf p).map (32 * g + ·)
/-- A record of threads of a team. -/
def State.waitRec (s : State) (tk kind chunk obj addr state mask : Nat) (ts : List Nat) (cont : Bool := false) : Rec :=
  { s.nameRec tk 0 [] ({ typ := 1, b0 := waitB0 kind chunk obj, f24 := addr, f32 := state, f48 := mask, flags := cont.toNat } : Rec) with
    thread := ts.headD 0, dt := 0 }

/-- Team barriers: from the first arrival of a phase (01 R42). -/
def State.barWaits (s : State) (tk : Nat) (m : Team) : List Wait :=
  (m.bars.filter fun e => e.2.a ≠ 0).map fun (n, _) => { src := coreOf tk, key := [1, tk, n], recs := s.barRecs tk n }
/-- Transaction barriers (11 R208): PEND, PHASE and the oldest copy in flight that completes there. -/
def State.tbWaits (s : State) (tk : Nat) (m : Team) : List Wait :=
  (List.range 64).filterMap fun k =>
    let ts := m.waiters fun c => match c with | .tb j _ => j == k | _ => false
    if ts.isEmpty then none else
    let b := tget m.tbs k {}
    let cid := match s.copies.find? fun e => e.2.team == some tk && e.2.slices.any fun x => x.2.comp == 1 && x.2.tb == k && !x.2.ended with
      | some (_, c) => c.cid
      | none => 0
    some { src := coreOf tk, key := [2, tk, k], recs := [s.waitRec tk 2 0 k 0 (b.pend + 2 ^ 32 * b.phase.toNat) cid ts] }
/-- Completion counters (11 R210): the target, the last value read, and the card whose completion writes the counter. -/
def State.ccWaits (s : State) (tk : Nat) (m : Team) : List Wait :=
  let objs := (m.groups.flatMap fun (_, x) => x.th.flatMap fun (_, th) => th.conds.filterMap fun c => match c with
    | .cc va target _ => some (va, target)
    | _ => none).eraseDups
  objs.map fun (va, target) =>
    let ts := m.waiters fun c => match c with | .cc a t _ => a == va && t == target | _ => false
    let v := match s.xlateDie (dieOf (coreOf tk)) m.ctx va .read with | .ok key _ => s.dword key | _ => 0
    let card := s.cards.find? fun e => e.2.ctx == m.ctx && e.2.cnt == va && e.2.ending ≠ 2
    let more := match card with
      | some (_, c) => [s.waitRec tk 3 0 0 va target.toNat (s.devno * 2 ^ 48 + launcher * 2 ^ 38 + c.cardid.toNat) ts true]
      | none => []
    { src := coreOf tk, key := [3, tk, va, target.toNat], recs := s.waitRec tk 3 0 0 va target.toNat v ts :: more }
/-- Rendezvous (15 R268): the listed groups that have not deposited. -/
def State.latchWaits (s : State) (tk : Nat) (m : Team) : List Wait :=
  let mine := (s.core (coreOf tk)).latch.filter fun d => d.tk == tk && !d.started
  ((mine.map fun d => ((m.group d.g).gang, d.seq)).eraseDups).filterMap fun (gang, seq) =>
    let have_ := (mine.filter fun d => d.seq == seq && (m.group d.g).gang == gang)
    let missing := (gangList gang).filter fun g => !have_.any fun d => d.g == g
    if missing.isEmpty then none else
    some { src := coreOf tk, key := [4, tk, gang.toNat, seq],
           recs := [s.waitRec tk 4 0 seq 0 gang.toNat (maskOf missing) (sortNat (have_.map fun d => 32 * d.g + d.cand.headD 0))] }
/-- Reservations of the tile store (15 R250): the team slots that hold granules. -/
def State.rsvWaits (s : State) (tk : Nat) : List Wait :=
  let core := coreOf tk
  let slots := (s.teams.filter fun e => coreOf e.1 == core && e.2.granules ≠ 0).map fun e => e.1 % 16
  ((s.core core).rsv.filter fun r => r.tk == tk).map fun r =>
    { src := core, key := [5, tk, r.g, r.k], recs := [s.waitRec tk 5 0 r.k 0 r.n (maskOf slots) (r.threads.map (32 * r.g + ·))] }
/-- Queues, empty or full (11 R201). -/
def State.queueWaits (s : State) (tk : Nat) (m : Team) : List Wait :=
  (List.range 8).filterMap fun q =>
    let ts := m.groups.flatMap fun (g, x) =>
      (x.th.filter fun e => e.2.held.any fun h => (h.2.1 == 6 || h.2.1 == 16) && h.2.2 == q).map (32 * g + ·.1)
    if ts.isEmpty then none else
    some { src := coreOf tk, key := [6, tk, q], recs := [s.waitRec tk 6 0 q 0 ((tget m.q q []).length) 0 ts] }
/-- A number for a condition: its kind of wait and its object. -/
def WaitOn.number (c : WaitOn) : Nat :=
  match c with
  | .bar n _ => 1 + 16 * n
  | .tb k _ => 2 + 16 * k
  | .cc va _ _ => 3 + 16 * va
  | .rsv k => 5 + 16 * k
  | .regang key _ => 10 + 16 * key
/-- Threads held with their integer only (17 R286): their state is by the condition that holds them: of several, the first of the lowest
thread that has one (log 122). -/
def State.holdWaits (s : State) (tk : Nat) (m : Team) : List Wait :=
  m.groups.flatMap fun (g, x) => (x.th.filter fun e => e.2.waiting && e.2.conds.isEmpty).map fun (t, _) =>
    let state := Config.threadState (((x.integer t).findSome? fun u => (x.thread u).conds.head?).elim 0 WaitOn.number)
    { src := coreOf tk, key := [10, tk, g, t],
      recs := [s.waitRec tk 10 0 0 0 state.toNat (s.devno * 2 ^ 48 + coreOf tk * 2 ^ 38) [32 * g + t]] }
/-- Closes that wait for their contributions (15 R276): the count merged, and the missing indices in ordered mode. -/
def State.closeWaits (s : State) : List Wait :=
  s.accums.filterMap fun (line, a) =>
    match a.close.bind fun c => (tget? s.accs c.2.2).map fun x => (c.1, x) with
    | none => none
    | some (e, x) =>
      let src := s.sliceSource (128 * line)
      let missing := if a.ordered == some true then (List.range e).filter fun i => !(a.indices.contains i) else []
      let chunks := (missing.map (· / 64)).eraseDups
      let one (c : Nat) : Rec :=
        let r : Rec := { typ := 1, b0 := waitB0 7 c 0, f24 := 128 * line, f32 := a.merged + 2 ^ 32 * e,
                         f48 := maskOf ((missing.filter (· / 64 == c)).map (· % 64)) }
        { s.nameAcc x r with dt := 0 }
      some { src := src, key := [7, line], recs := (if chunks.isEmpty then [0] else chunks).map one }
/-- Commits and closes that wait for an accumulator slot of a slice (15 R274). -/
def State.openWaits (s : State) : List Wait :=
  s.accs.filterMap fun (id, x) => match x.stage with
    | .net t _ =>
      if !x.isCommit || s.dt < t || s.canOpen x.key then none else
      let src := s.sliceSource x.key
      let r : Rec := { s.nameAcc x ({ typ := 1, b0 := waitB0 8 0 0, f48 := s.devno * 2 ^ 48 + src * 2 ^ 38 } : Rec) with dt := 0 }
      some { src := src, key := [8, id], recs := [r] }
    | _ => none
/-- The die whose engine runs, or ran last, the instance of a COLLID; else that of the sender itself (log 102). -/
def State.collDie (s : State) (collid : Word) (die : Nat) : Nat :=
  match s.insts.find? fun x => x.2.active && x.2.collid == collid with
  | some x => x.2.die
  | none => match (s.insts.filter fun x => x.2.collid == collid).getLast? with | some x => x.2.die | none => die
/-- Collective entries that have not fired or lack contributions, and contributions that this device's own senders hold for
itself or for a peer (19 R317, R319; 28 R416). -/
def State.collWaits (s : State) : List Wait :=
  let entries := s.insts.flatMap fun (k, i) => if !i.active then [] else i.entries.filterMap fun (e, x) =>
    let lacks := (List.range x.senders.length).any fun j => (tget? x.contribs j).isNone
    if (x.st == .armed && x.flag ≠ 0) || (x.st == .fired && lacks) then
      some ({ src := collSrc i.die, key := [9, k, e], recs := [{ s.entryRec e i x with dt := 0 }] } : Wait)
    else none
  let who (cid : Nat) (r : Rec) : Rec := match s.insts.find? fun x => x.2.entries.any fun e => e.2.cid == cid && e.2.send with
    | some x => x.2.record r
    | none => r
  let held := s.sending.map fun x =>
    ({ src := collSrc x.die, key := [9, 0, x.msg.cid],
       recs := [who x.msg.cid { typ := 1, b0 := waitB0 9 0 x.msg.entry, core := collSrc x.die, f32 := x.msg.collid.toNat
                                f48 := s.collParty (s.collDie x.msg.collid x.die) x.peer x.msg.collid }] } : Wait)
  entries ++ held

/-- The waits current in a state. -/
def State.currentWaits (s : State) : List Wait :=
  (s.teams.flatMap fun (tk, m) => s.barWaits tk m ++ s.tbWaits tk m ++ s.ccWaits tk m ++ s.latchWaits tk m ++ s.rsvWaits tk ++
    s.queueWaits tk m ++ s.holdWaits tk m) ++ s.closeWaits ++ s.openWaits ++ s.collWaits

/-- The records of a wait. -/
def State.putWait (s : State) (w : Wait) (typ flags : Nat) : State :=
  overAll w.recs (fun s r => s.emit w.src { r with typ := typ, dt := s.dt, flags := r.flags ||| flags }) s
/-- Is a wait one on a team barrier that the state before did not know, begun by its first arrival alone? Its record stands. -/
def Wait.firstArrival (w : Wait) : Bool :=
  w.key.headD 0 == 1 && w.recs.all fun r => r.f32 % 2 ^ 32 == 1
/-- 27 R404: the records of the waits that a step begins, changes and ends. A barrier's first record and its last are written
at its first arrival and at its release. -/
def State.noteWaits (s old : State) : State :=
  let a := old.currentWaits
  let b := s.currentWaits
  let ended := a.filter fun w => !(b.any (·.key == w.key)) &&
    !(w.key.headD 0 == 1 && (s.team (w.key.getD 1 0)).isSome)
  let begun := b.filter fun w => match a.find? (·.key == w.key) with
    | some v => v.recs != w.recs
    | none => !(w.firstArrival && (old.team (w.key.getD 1 0)).isSome)
  overAll begun (fun s w => s.putWait w 1 0) (overAll ended (fun s w => s.putWait w 2 0) s)

/-! The team watchdog (01 R43; 11 R201; 15 R268; 13 R239). -/

/-- Has the watchdog of a team parked it? -/
def Team.stopped (m : Team) : Bool := m.groups.any fun e => e.2.parks.any (·.kind == .watchdog)
/-- Has a full period of the team's watchdog passed since a reading of its clock? -/
def Team.periodOver (m : Team) (since : Nat) : Bool := since + m.wdPeriod ≤ m.wdClock
/-- The watchdog fires: the wait's current records, then a park of every group under one PARKID; nothing is released. -/
def State.watchdogFire (s : State) (tk cause detail : Nat) (key : List Nat) : State :=
  match s.team tk with
  | none => s
  | some m =>
    let s := overAll (s.currentWaits.filter (·.key == key)) (fun s w => s.putWait w 1 0) s
    let (pid, s) := s.newPark m.ctx
    overAll (m.groups.filter fun e => !e.2.retired && !e.2.notExited.isEmpty) (fun s (g, x) =>
      let ts := x.notExited
      let s := s.modGroup tk g fun x => { x with parks := x.parks ++ [{ id := pid, kind := .watchdog }] }
      s.fault tk g ts cause kPark 0 (x.thread (ts.headD 0)).pc detail pid) s

/-- TEAM_BARRIER_TIMEOUT. -/
def State.barLate (s : State) (tk n : Nat) : Bool :=
  match s.team tk with
  | none => false
  | some m => !m.stopped && (m.bar n).a ≠ 0 && m.periodOver (m.bar n).since
def execTeamBarrierTimeout (tk n : Nat) (s : State) : Host.Outcome State Fault Refusal :=
  .next (if s.barLate tk n then s.watchdogFire tk 49 n [1, tk, n] else s)

/-- The wait of a thread that the watchdog of R201 looks at, the longest of those at step 3: since when, its kind and its key. -/
def Thread.watched (th : Thread) (tk : Nat) (gang : Word) : Option (Nat × Nat × List Nat) :=
  match th.st with
  | .waiting cs since => cs.findSome? fun c => match c with
    | .tb k _ => some (since, 2, [2, tk, k])
    | .cc va target _ => some (since, 3, [3, tk, va, target.toNat])
    | _ => none
  | _ => ((sortBy (fun x y => decide (x.1 ≤ y.1)) th.held).findSome? fun (since, k, o) =>
    if k == 6 then some (since, 6, [6, tk, o]) else if k == 4 then some (since, 4, [4, tk, gang.toNat, o]) else none)
/-- WAIT_TIMEOUT. -/
def State.waitLate (s : State) (tk g t : Nat) : Bool :=
  match s.team tk with
  | none => false
  | some m => !m.stopped && (match ((m.group g).thread t).watched tk (m.group g).gang with
    | some (since, _) => m.periodOver since
    | none => false)
def execWaitTimeout (tk g t : Nat) (s : State) : Host.Outcome State Fault Refusal :=
  .next (if !s.waitLate tk g t then s else
    match s.group tk g with
    | none => s
    | some x => match (x.thread t).watched tk x.gang with
      | some (_, kind, key) => s.watchdogFire tk 50 kind key
      | none => s)

end Sys2Proof.Machine
end

