-- ==== Sys2Proof/Machine/Trace.lean ====
section
/-! DEFINITION. The recorder and the debugger's path: records stored in the sillage store (27 R397-R399, R401), snapshots
(R405), mailbox pops (R411) and the management path's debugger commands (R412; 22 R347). -/

namespace Sys2Proof.Machine

/-! The sillage store. -/

/-- One step of a CRC-8 with polynomial 0x07, bits taken from the top (log 16). -/
def crcBit (c : BitVec 8) : BitVec 8 := if c.msb then (c <<< 1) ^^^ 0x07#8 else c <<< 1
def crcByte (c b : BitVec 8) : BitVec 8 := crcBit (crcBit (crcBit (crcBit (crcBit (crcBit (crcBit (crcBit (c ^^^ b))))))))
/-- CHECK of a record (27 R399). -/
def crc8 (l : List Byte) : Byte := l.foldl crcByte 0
/-- The 64 bytes of a record of a source (27 R399). -/
def Rec.bytes (r : Rec) (src : Nat) : List Byte :=
  let head := r.body ++ leBytes 2 r.typ ++ leBytes 2 src ++ leBytes 2 r.seq ++ leBytes 1 r.flags
  head ++ [crc8 head]
/-- 27 R398: where a record of the store stands. -/
def slotAt (i : Nat) : Nat := 4096 + 64 * (i % Config.nslot)
/-- A record written into the store; WINDEX advances. -/
def State.storeRecord (s : State) (src : Nat) (r : Rec) : State :=
  { s with trace := msets s.trace (slotAt s.windex) (r.bytes src), damaged := sdel s.damaged (s.windex % Config.nslot), windex := s.windex + 1 }
/-- 27 R398, R401: bytes of the store: its header, and slots, a damaged one with FLAGS bit 1 set. -/
def State.traceBytes (s : State) (off len : Nat) : List Byte :=
  let header := leBytes 8 s.windex ++ leBytes 8 Config.nslot ++ leBytes 8 s.resets
  (List.range len).map fun k =>
    let a := off + k
    if a < 4096 then header.getD a 0
    else
      let b := mget s.trace a
      if a % 64 == 62 && ((a - 4096) / 64) ∈ s.damaged then b ||| 2 else b

/-- TRACE_RECORD_STORE: the oldest record of a source, a core's once it is 64 ticks old (25 R381), enters the store; a fault record
goes to its context's fault queue as well (23 R371, R372). -/
def State.storeDue (s : State) (src : Nat) : Bool :=
  match (tget s.sources src {}).buf with
  | [] => false
  | r :: _ => r.dt + (if src < 288 then Config.quarantine else 0) ≤ s.dt
/-- 27 R397: a record reaches the store within 4,096 ticks, so that then no other move comes before it. -/
def State.storeLate (s : State) (src : Nat) : Bool :=
  match (tget s.sources src {}).buf with
  | [] => false
  | r :: _ => r.dt + 4096 ≤ s.dt
def execTraceRecordStore (source : Nat) (s : State) : Host.Outcome State Fault Refusal :=
  .next (match (tget s.sources source {}).buf with
  | [] => s
  | r :: rest =>
    if !s.storeDue source then s else
    let s := { s with sources := tmod s.sources source fun x => { x with buf := rest } }
    let s := s.storeRecord source r
    match r.ctx with
    | some c => if r.typ == 0 then s.fqPut c r else s
    | none => s)

/-! Snapshots (27 R405). -/

/-- SNAPDT is written: S is accepted and forwarded, or refused. -/
def State.snapWrite (s : State) (v : Dword) : State :=
  if s.snapPend || v.toNat < s.dt + 1200 then { s with snapRefused := true }
  else { s with snapdt := v, snapPend := true, snapTaken := false, outbox := s.outbox ++ [.snapshot s.input.cid v] }
def execSnapshotRequest (s : State) : Host.Outcome State Fault Refusal := .next (s.snapWrite s.input.value)
/-- SNAPSHOT_FORWARD_RECEIVED: S of another device of the domain, taken in this device's DT. -/
def execSnapshotForwardReceived (s : State) : Host.Outcome State Fault Refusal :=
  .next { s with snapdt := s.input.value, snapPend := true, snapTaken := false }
/-- SNAPSHOT_TAKE: at DT S every source writes a record of each current wait. -/
def State.snapDue (s : State) : Bool := s.snapPend && !s.snapTaken && s.snapdt.toNat ≤ s.dt
def execSnapshotTake (s : State) : Host.Outcome State Fault Refusal :=
  .next (if !s.snapDue then s else { overAll s.currentWaits (fun s w => s.putWait w 1 8) s with snapTaken := true })
/-- SNAPSHOT_END: every source's snapshot records are in the store. -/
def State.snapEndDue (s : State) : Bool :=
  s.snapPend && s.snapTaken && !(s.sources.any fun e => e.2.buf.any fun r => r.flags.testBit 3)
def execSnapshotEnd (s : State) : Host.Outcome State Fault Refusal :=
  .next (if !s.snapEndDue then s else
    { s.emit 768 { typ := 15, core := 768, f24 := s.snapdt.toNat, dt := s.dt } with snapPend := false, snapTaken := false })

/-! The debugger's path. -/

/-- MBOX_POP: the oldest record of a core's mailbox, or one of KIND 0. -/
def execMboxPop (s : State) : Host.Outcome State Fault Refusal :=
  .next (match (s.core s.input.core).mbox with
  | [] => { s with outbox := s.outbox ++ [.mailbox (MRec.bytes { kind := 0 })] }
  | r :: rest =>
    let s := s.modCore s.input.core fun c => { c with mbox := rest }
    { s with outbox := s.outbox ++ [.mailbox r.bytes] })

/-- Does a team have the name of a command's target? -/
def Team.named (m : Team) (x : DebugTarget) : Bool :=
  m.ctx == x.ctx && m.launchid == x.launch && m.x == x.tx && m.y == x.ty && m.z == x.tz
/-- 27 R410: the record of a command kept for a saved team, in the mailbox of the core it left. -/
def State.pendingRecord (s : State) (v : Save) (x : DebugTarget) : State :=
  let (id, s) := s.fresh
  let g := (bitsOf x.groups.toNat 16).headD 0
  let pc := ((v.team.group g).thread ((bitsOf x.lanes.toNat 32).headD 0)).pc
  let r : MRec := { kind := 6, id := id, g := g, core := v.core, launchid := v.team.launchid, x := v.team.x, y := v.team.y, z := v.team.z,
                    mask := x.lanes, pc := pc, dt := s.dt, ctx := v.ctx }
  let s := s.modCore v.core fun c => { c with mboxOut := c.mboxOut ++ [r] }
  s.emit 768 { typ := 0, b0 := 46 + 256 * kEvent, launchid := v.team.launchid, x := v.team.x, y := v.team.y, z := v.team.z,
               thread := 32 * g, core := v.core, f32 := pc, f48 := x.lanes.toNat, dt := s.dt, ctx := some v.ctx }
/-- A halt (0), resume (1) or step (2) of the management path, with its status. -/
def State.debugCommand (s : State) (c : Nat) : State :=
  let x := s.input.target
  let answer (s : State) (n : Nat) : State := { s with outbox := s.outbox ++ [.debugStatus n] }
  match s.teams.find? fun e => e.2.named x with
  | some (tk, _) => answer (s.debugCmd tk c x.groups.toNat x.lanes.toNat) 0
  | none =>
    match s.saves.find? fun e => !e.2.refused && e.2.team.named x with
    | some (k, v) =>
      let s := { s with saves := tmod s.saves k fun v => { v with cmds := v.cmds ++ [(c, x)] } }
      answer (s.pendingRecord v x) 1
    | none => answer s 2
def execDebugHalt (s : State) : Host.Outcome State Fault Refusal := .next (s.debugCommand 0)
def execDebugResume (s : State) : Host.Outcome State Fault Refusal := .next (s.debugCommand 1)
def execDebugStep (s : State) : Host.Outcome State Fault Refusal := .next (s.debugCommand 2)

end Sys2Proof.Machine
end

