-- ==== Sys2Proof/Machine/Registers.lean ====
section
/-! DEFINITION. Device registers: their reads and writes (00 R11; 07 R123; 13 R235; 21 R341; 23 R359, R360, R366; 25 R390, R394;
27 R405, R406, R411; 29 R419-R422, R426, R430), and the tenants' windows (29 R419). -/

namespace Sys2Proof.Machine

def State.queue (s : State) (tenant q : Nat) : LQueue := tget (s.tenant tenant).queues q {}
def State.setQueue (s : State) (tenant q : Nat) (x : LQueue) : State :=
  let t := s.tenant tenant
  s.setTenant tenant { t with queues := tset t.queues q x }
/-- 25 R386: a unit has corrected an error. -/
def State.countCorrected (s : State) (unit : Nat) : State := { s with corrected := tset s.corrected unit (tget s.corrected unit 0 + 1) }
def State.setCluster (s : State) (n : Nat) (x : Cluster) : State := { s with clusters := tset s.clusters n x }
def State.sliceSt (s : State) (core n : Nat) : SliceSt := tget (s.core core).slices n {}
def State.setSliceSt (s : State) (core n : Nat) (x : SliceSt) : State := s.modCore core fun c => { c with slices := tset c.slices n x }

/-- 25 R390: residue faults of a slice in the last 2^24 ticks, saturating at 15. -/
def State.rfcnt (s : State) (x : SliceSt) : Nat := min 15 (x.residue.filter fun e => s.dt < e.2 + 2 ^ 24).length

/-! Writes that have rows of their own. -/

/-- 07 R123: a lease length as it is taken. -/
def leaseClamp (n : Nat) : Nat := min 4096 (max 64 n)
def State.leasectl (s : State) (v : Dword) : State :=
  { s with llhbm := leaseClamp (field v.toNat 0 13), llhost := leaseClamp (field v.toNat 16 13) }
def execLeasectlWrite (s : State) : Host.Outcome State Fault Refusal := .next (s.leasectl s.input.value)

/-- 29 R420: QTAIL is written: the doorbell, or ignored and counted. -/
def State.doorbell (s : State) (tenant q : Nat) (v : Word) : State :=
  let x := s.queue tenant q
  if x.size < v - x.head then s.qbadUp tenant q else s.setQueue tenant q { x with tail := v }
def execQtailDoorbell (s : State) : Host.Outcome State Fault Refusal :=
  .next (s.doorbell s.input.tenant s.input.q (s.input.value.setWidth 32))
/-- 29 R420: QBASE is written, which clears QBAD. -/
def State.qbaseSet (s : State) (tenant q : Nat) (v : Dword) : State := s.setQueue tenant q { s.queue tenant q with base := v, bad := 0 }
def execQbaseWrite (s : State) : Host.Outcome State Fault Refusal := .next (s.qbaseSet s.input.tenant s.input.q s.input.value)

/-- 29 R422: IRQMASK is written: a pending bit that it unmasks sends its message at once. -/
def State.irqMask (s : State) (tenant : Nat) (v : Word) : State :=
  let x := s.tenant tenant
  let s := s.setTenant tenant { x with mask := v }
  let free := (bitsOf x.pend.toNat 32).filter fun b => x.mask.getLsbD b && !v.getLsbD b
  if x.addr == 0 then s else
  overAll free (fun s b => s.irqMessage tenant b) s
def execIrqmaskWrite (s : State) : Host.Outcome State Fault Refusal := .next (s.irqMask s.input.tenant (s.input.value.setWidth 32))

/-- 25 R394: AGECTL is written. -/
def State.agectl (s : State) (n : Nat) (v : Dword) : State :=
  let x := s.cluster n
  let w := min 12 (v.toNat % 16)
  let lower := w < x.steps && x.unlock
  s.setCluster n { x with
    pending := if x.steps < w || lower then some w else x.pending
    unlock := if lower then false else v.getLsbD 4
    retreq := x.retreq && !v.getLsbD 5 }
def execAgectlWrite (s : State) : Host.Outcome State Fault Refusal := .next (s.agectl s.input.cluster s.input.value)

/-! Reads and writes of a register. -/

/-- What a register reads as. -/
def State.readReg (s : State) (r : Reg) : Dword :=
  let n (x : Nat) : Dword := BitVec.ofNat 64 x
  let w (x : Word) : Dword := x.setWidth 64
  match r with
  | .draint => n s.draint
  | .dskew => n s.dskew
  | .spsize => n s.spsize
  | .devno => n s.devno
  | .grant dev tenant => n (s.grants.filter fun g => g.1 == dev && g.2.1 == tenant).length
  | .dentry c => (s.core c).dentry
  | .smplctl c => w (s.core c).smplctl
  | .mboxst c => n ((s.core c).mbox.length + 2 ^ 16 * (s.core c).mboxOvf)
  | .slicest c k =>
    let x := s.sliceSt c k
    n (x.splane + 4 * x.spused.toNat + 8 * x.lost.toNat + 16 * s.rfcnt x + 256 * x.rbcnt)
  | .snapst => n (s.snapPend.toNat + 2 * s.snapRefused.toNat)
  | .migstat c =>
    let x := (s.ctx c).migr
    n (x.state + 8 * x.busy.toNat + 16 * min 4095 x.round + 2 ^ 16 * min 65535 x.late)
  | .pwrcap => s.pwrcap
  | .corrected u => n (tget s.corrected u 0)
  | .ready => w s.readyReg
  | .failed => w s.failedReg
  | .fqbase c => (s.ctx c).fqbase
  | .fqsize c => w (s.ctx c).fqsize
  | .fqhead c => w (s.ctx c).fqhead
  | .fqdrop c => w (s.ctx c).fqdrop
  | .resolve c => w (s.ctx c).resolve
  | .root c => (s.ctx c).rootReg
  | .invva c => (s.ctx c).invva
  | .invctl c => (s.ctx c).invctl ||| n (2 ^ 34 * (s.ctx c).inv.isSome.toNat)
  | .invstat c => n ((s.ctx c).done.toNat + 2 * (s.ctx c).refused.toNat + 2 ^ 16 * (s.ctx c).invseq)
  | .ctxOwner c _ => n ((s.ctx c).tenant)
  | .bindWord tk k => let x := s.slot tk; [x.w0, x.w1, x.w2, x.w3].getD k 0
  | .peer c k => tget (s.ctx c).peers k 0
  | .qsize t q => w (s.queue t q).size
  | .qhead t q => w (s.queue t q).head
  | .qctx t q => n (s.queue t q).ctx
  | .qbad t q => w (s.queue t q).bad
  | .irqPending t => w (s.tenant t).pend
  | .irqAddr t => (s.tenant t).addr
  | .irqData t => w (s.tenant t).data
  | .qbase t q => (s.queue t q).base
  | .qtail t q => w (s.queue t q).tail
  | .irqMask t => w (s.tenant t).mask
  | .fqtail c => w (s.ctx c).fqtail
  | .agectl k =>
    let x := s.cluster k
    n (x.steps + 16 * x.unlock.toNat + 32 * x.retreq.toNat + 2 ^ 16 * x.drift)
  | .snapdt => s.snapdt
  | .leasectl => n (s.llhbm + 2 ^ 16 * s.llhost)

/-- 21 R341: DRAINT from 1,200 to 2^24; another value is taken as the nearer end (log 124). -/
def drainClamp (n : Nat) : Nat := min (2 ^ 24) (max 1200 n)
/-- 07 R119: a scratchpad size as it is taken: at most 64 MiB, and the multiple of 2 MiB below (log 124). -/
def spClamp (n : Nat) : Nat := min (2 ^ 26) n / 2 ^ 21 * 2 ^ 21
/-- Does a register's unit exist: one of 288 cores, 32 slices each, 36 clusters (00 R2, R3)? -/
def regExists (r : Reg) : Bool :=
  match r with
  | .dentry c | .smplctl c | .mboxst c => c < 288
  | .slicest c k => c < 288 && k < 32
  | .agectl k => k < 36
  | _ => true
/-- 29 R428: only verified firmware writes grants, peer tables and DENTRY (bind records and keys besides; log 112). -/
def firmwareReg (r : Reg) : Bool := match r with | .grant _ _ | .peer _ _ | .dentry _ => true | _ => false
/-- The effect of a write on a register: RW fields are set, W1C bits cleared, RO fields ignored; a command that the write gives is
taken (00 R11 and the register's map). -/
def State.writeReg (s : State) (r : Reg) (v : Dword) : State :=
  let w : Word := v.setWidth 32
  let at_ (c : Nat) : State := { s with input := { s.input with ctx := c, value := v, id := v.toNat % 2 ^ 16 } }
  if (firmwareReg r && !s.fwRunning) || !regExists r then s else
  match r with
  | .draint => { s with draint := drainClamp v.toNat }
  | .dskew => { s with dskew := v.toNat }
  | .spsize => { s with spsize := spClamp v.toNat }.fitSlices
  | .devno => { s with devno := v.toNat % 256 }
  | .grant dev tenant => { s with grants := if s.grants.contains (dev, tenant, v.toNat) then s.grants else s.grants ++ [(dev, tenant, v.toNat)] }
  | .dentry c => s.modCore c fun k => { k with dentry := v }
  | .smplctl c => s.modCore c fun k => { k with smplctl := w &&& 0x3F }
  | .mboxst c => if field v.toNat 16 16 == 0 then s else s.modCore c fun k => { k with mboxOvf := 0 }
  | .slicest c k => if field v.toNat 8 8 == 0 then s else s.setSliceSt c k { s.sliceSt c k with rbcnt := 0 }
  | .snapst => { s with snapRefused := s.snapRefused && !v.getLsbD 1 }
  | .migstat c => s.modCtx c fun x => { x with migr := { x.migr with busy := x.migr.busy && !v.getLsbD 3 } }
  | .pwrcap => { s with pwrcap := v }
  | .ready | .failed | .corrected _ | .fqhead _ | .fqdrop _ | .qhead _ _ | .qbad _ _ | .bindWord _ _ => s
  | .fqbase c => s.modCtx c fun x => { x with fqbase := v }
  | .fqsize c => (s.modCtx c fun x => { x with fqsize := w }).fqRoom c
  | .resolve c =>
    let act := field v.toNat 16 2
    if v.getLsbD 18 && act ≠ 3 then (at_ c).resolveWrite act else s.modCtx c fun x => { x with resolve := w &&& 0x3FFFF }
  | .root c => s.modCtx c fun x => { x with rootReg := v }
  | .invva c => s.modCtx c fun x => { x with invva := v }
  | .invctl c => if v.getLsbD 34 then (at_ c).invStart (v.getLsbD 33)
                 else s.modCtx c fun x => { x with invctl := BitVec.ofNat 64 (v.toNat % 2 ^ 34) }
  | .invstat c => s.modCtx c fun x => { x with done := x.done && !v.getLsbD 0, refused := x.refused && !v.getLsbD 1 }
  | .ctxOwner c tenant =>
    if 1024 ≤ c || 32 ≤ tenant || ((s.ctx c).owned && (s.ctx c).tenant ≠ tenant) then s
    else s.modCtx c fun x => { x with tenant := tenant, owned := true, ownQueue := v.toNat % 32 }
  | .peer c k => s.modCtx c fun x => { x with peers := tset x.peers (k % 256) v }
  | .qsize t q => s.setQueue t q { s.queue t q with size := w }
  | .qctx t q => s.setQueue t q { s.queue t q with ctx := v.toNat }
  | .irqPending t => s.setTenant t { s.tenant t with pend := (s.tenant t).pend &&& ~~~w }
  | .irqAddr t => s.setTenant t { s.tenant t with addr := v }
  | .irqData t => s.setTenant t { s.tenant t with data := w }
  | .qbase t q => s.qbaseSet t q v
  | .qtail t q => s.doorbell t q w
  | .irqMask t => s.irqMask t w
  | .fqtail c => (s.modCtx c fun x => { x with fqtail := w }).fqRoom c
  | .agectl k => s.agectl k v
  | .snapdt => s.snapWrite v
  | .leasectl => s.leasectl v
/-- REGISTER_WRITE. -/
def execRegisterWrite (s : State) : Host.Outcome State Fault Refusal := .next (s.writeReg s.input.reg s.input.value)

/-! The tenants' windows (29 R419-R421; 23 R359). -/

/-- The register at an offset of a tenant's window, with its width in bytes. -/
def State.windowReg (s : State) (tenant off : Nat) : Option (Reg × Nat) :=
  if 32 ≤ tenant then none
  else if off < 0x1000 then
    match off with
    | 0x00 => some (.irqPending tenant, 4)
    | 0x04 => some (.irqMask tenant, 4)
    | 0x08 => some (.irqAddr tenant, 8)
    | 0x10 => some (.irqData tenant, 4)
    | _ => none
  else if off < 0x2000 then
    let q := (off - 0x1000) / 0x100 + 1
    match off % 0x100 with
    | 0x00 => some (.qbase tenant q, 8)
    | 0x08 => some (.qsize tenant q, 4)
    | 0x0C => some (.qhead tenant q, 4)
    | 0x10 => some (.qtail tenant q, 4)
    | 0x14 => some (.qctx tenant q, 4)
    | 0x18 => some (.qbad tenant q, 4)
    | _ => none
  else if 0x10000 ≤ off && off < 0x100000 then
    let c := (off - 0x10000) / 0x100
    if (tget? s.ctxs c).isNone || (s.ctx c).tenant ≠ tenant then none else
    match off % 0x100 with
    | 0x00 => some (.fqbase c, 8)
    | 0x08 => some (.fqsize c, 4)
    | 0x0C => some (.fqhead c, 4)
    | 0x10 => some (.fqtail c, 4)
    | 0x14 => some (.fqdrop c, 4)
    | 0x18 => some (.resolve c, 4)
    | 0x20 => some (.root c, 8)
    | 0x28 => some (.invva c, 8)
    | 0x30 => some (.invctl c, 8)
    | 0x38 => some (.invstat c, 4)
    | _ => none
  else none
/-- What a window reads as at an offset: any other offset, and another tenant's block, reads as 0. -/
def State.readWindow (s : State) (tenant off : Nat) : List Byte :=
  match s.windowReg tenant off with
  | some (r, n) => leBytes n (s.readReg r).toNat
  | none => leBytes 4 0
/-- A write there; QCTX is firmware's alone, and read only in the window. -/
def State.writeWindow (s : State) (tenant off : Nat) (v : Dword) : State :=
  match s.windowReg tenant off with
  | some (.qctx _ _, _) | none => s
  | some (r, _) => s.writeReg r v

end Sys2Proof.Machine
end

