-- ==== Sys2Proof/Machine/Fabric.lean ====
section
/-! DEFINITION. The world outside: host accesses (29 R417-R419), other devices' accesses (R424), the dirty bitmap (25 R395),
migration (29 R430-R432; 30 R434), bring-up and firmware (29 R426-R429; 00 R10), and tile-store injection (15 R281). -/

namespace Sys2Proof.Machine

/-! Accesses from outside, performed at their home slices. -/

def State.answer (s : State) (m : OutMsg) : State := { s with outbox := s.outbox ++ [m] }
/-- A read from outside, which gives its bytes with the end of a lease, or the cause of its poison. -/
def State.outsideRead (s : State) (key len : Nat) (le : Nat := 0) : State :=
  if s.anyOpen key len then s.answer (.refused s.input.cid 16)
  else if s.anyMarked key len then s.answer (.refused s.input.cid 17)
  else s.answer (.bytes s.input.cid (s.bytes key len) le)
/-- What is done to a run of bytes. -/
structure Run where
  key : Nat
  len : Nat
  writes : Bool
deriving DecidableEq, Repr
/-- The key of a host address. -/
def hostKey (host : Bool) (pa : Nat) : Nat := if host then hostBase + pa % 2 ^ 48 else pa % 2 ^ 48
/-- The run of bytes of a host access, none for a register or the sillage store. -/
def hostRun (o : HostOp) : Option Run :=
  match o with
  | .load host pa n => some { key := hostKey host pa, len := n, writes := false }
  | .store host pa l => some { key := hostKey host pa, len := l.length, writes := true }
  | _ => none
/-- The run of bytes of another device's access. -/
def remoteRun (o : RemoteOp) : Run :=
  match o with
  | .load pa n => { key := pa, len := n, writes := false }
  | .store pa l => { key := pa, len := l.length, writes := true }
  | .add pa _ => { key := pa, len := 8, writes := true }
  | .atom _ pa w _ _ => { key := pa, len := w, writes := true }
/-- The run of bytes of an access from outside. -/
def runOf (i : Instr) (x : Input) : Option Run :=
  match i with
  | .hostAccess => hostRun x.hostOp
  | .remoteAccess => some (remoteRun x.remoteOp)
  | .migrationTransfer => some { key := 4096 * (x.addr / 4096), len := 4096, writes := true }
  | _ => none
/-- Does an earlier access of the same kind that waits meet a run of bytes? -/
def State.queuedBefore (s : State) (i : Instr) (r : Run) : Bool :=
  s.deferred.any fun e => e.1 == i && (runOf i e.2).any fun q => (lineRuns q.key q.len).any fun x =>
    (lineRuns r.key r.len).any fun y => x.1 / 128 == y.1 / 128
/-- 12 R217; 29 R418: may a run of bytes be accessed now by a source: its lines are free, and no earlier access of the kind waits for one? -/
def State.runFree (s : State) (i : Instr) (src : Nat) (r : Run) : Bool :=
  !s.queuedBefore i r && if r.writes then s.clearWrite src r.key r.len else s.clearRead src r.key r.len

/-- A host access made now (29 R418, R419; 27 R398): none where it waits for a line, or a register for an earlier access. -/
def State.hostNow (s : State) : Option State :=
  let register (t : State) : Option State := if s.deferred.any (·.1 == .hostAccess) then none else some t
  let cid := s.input.cid
  match s.input.hostOp with
  | .load host pa len =>
    if !s.runFree .hostAccess 772 { key := hostKey host pa, len := len, writes := false } then none
    else some (s.outsideRead (hostKey host pa) len)
  | .store host pa l =>
    let key := hostKey host pa
    if !s.runFree .hostAccess 772 { key := key, len := l.length, writes := true } then none
    else some (if s.anyOpen key l.length then s.answer (.refused cid 16) else s.outsideWrite 772 key l .engine (some cid))
  | .readWindow t off => register (s.answer (.bytes cid (s.readWindow t off) 0))
  | .writeWindow t off v => register (s.writeWindow t off v)
  | .readReg r => register (s.answer (.bytes cid (leBytes 8 (s.readReg r).toNat) 0))
  | .readTrace off len => some (s.answer (.bytes cid (s.traceBytes off len) 0))
/-- HOST_ACCESS, over Slamel Link (29 R427). An HBM address of 768 GiB or more reads and writes as memory (log 109). -/
def execHostAccess (s : State) : Host.Outcome State Fault Refusal :=
  .next (if !s.readyReg.getLsbD 10 then s else s.orWait .hostAccess s.hostNow)

/-- 11 R192: the operation of an atomic from another device. -/
def atomOpOf (n : Nat) : Option AtomOp :=
  [AtomOp.add, .min, .max, .and, .or, .xor, .xchg, .cas, .fadd, .fmin, .fmax][n]?
/-- Has firmware granted every frame of a run of bytes to a device and tenant (29 R424)? -/
def State.granted_ (s : State) (dev tenant key len : Nat) : Bool :=
  (List.range ((key % 4096 + len + 4095) / 4096)).all fun i => s.grants.contains (dev, tenant, key / 4096 + i)
/-- 07 R121, R123: lines that are read by another device are brought in and leased to it. -/
def State.leaseOut (s : State) (key len : Nat) : State :=
  overAll (lineRuns key len) (fun s r =>
    let l := r.1 / 128
    let s := s.bringIn l
    s.setLine l { s.line l with maxLE := max (s.line l).maxLE (s.dt + s.llhbm) }) s
/-- Another device's access made now, none where it waits for a line. A store registers its core as owner, and it, an add and an atomic are
acknowledged with their GWCT (07 R126, R127). -/
def State.remoteNow (s : State) : Option State :=
  let x := s.input
  let src := peerSrc x.peer x.core
  let r := remoteRun x.remoteOp
  if !(r.key + r.len ≤ Config.hbmBytes && s.granted_ x.peer x.tenant r.key r.len) then some (s.answer (.refused x.cid 11)) else
  if !s.runFree .remoteAccess src r then none else
  if s.anyOpen r.key r.len then some (s.answer (.refused x.cid 16)) else
  let marked := s.anyMarked r.key r.len
  match x.remoteOp with
  | .load pa len => some (if marked then s.answer (.refused x.cid 17) else (s.leaseOut pa len).outsideRead pa len (s.dt + s.llhbm))
  | .store pa l => some (s.outsideWrite src pa l .store (some x.cid))
  | .add pa v =>
    some (if marked then s.answer (.refused x.cid 17) else s.outsideWrite src pa (leBytes 8 (s.dword pa + v.toNat)) .engine (some x.cid))
  | .atom op pa w c cmp =>
    match atomOpOf op with
    | none => some s
    | some op =>
      if marked then some (s.answer (.refused x.cid 17)) else
      let (id, s) := s.fresh
      let a : Access := { src := src, kind := .atom op, key := pa, width := w, data := leBytes w c, cmp := leBytes w cmp, dt := s.dt,
                          entered := true, stage := .net s.dt (portOf src pa), cid := x.cid }
      let s := { s with accs := tset s.accs id a }
      some ((s.performAtomic id a op).ccTestAll (some (pa / 128)))
/-- REMOTE_ACCESS, over Falkan Fabric (29 R427): of core `core` of device `peer` (log 74). -/
def execRemoteAccess (s : State) : Host.Outcome State Fault Refusal :=
  .next (if !s.readyReg.getLsbD 11 then s else s.orWait .remoteAccess s.remoteNow)

/-! The dirty bitmap (25 R395), shared by the migrations in progress. -/

/-- Does a list of frames, first and count each, hold one? -/
def inFrames (l : List (Nat × Nat)) (f : Nat) : Bool := l.any fun r => r.1 ≤ f && f < r.1 + r.2
/-- The frames of this device's HBM that a context maps. -/
def State.framesOf (s : State) (ctx : Nat) : List (Nat × Nat) :=
  (s.invFrames ctx { first := 0, pages := 0, all := true, move := false, wait := [] }).filter fun r => isHbm (4096 * r.1)
/-- Fetch and clear a word of the bitmap: its frames; those of other contexts that migrate are kept for their own jobs. -/
def State.fetchClear (s : State) (word : Nat) (forCtx : Option Nat) : List Nat × State :=
  let hit := s.dirty.filter fun f => f / 64 == word
  let s := { s with dirty := s.dirty.filter fun f => f / 64 ≠ word }
  let others := s.ctxs.filter fun e => some e.1 ≠ forCtx && (e.2.migr.state == 1 || e.2.migr.state == 2)
  (hit, overAll others (fun s e =>
    let mine := hit.filter (inFrames (s.framesOf e.1))
    if mine.isEmpty then s else s.modCtx e.1 fun x => { x with migr := { x.migr with found := mine.foldl sadd x.migr.found } }) s)
/-- DIRTY_BITMAP_FETCH_CLEAR: `addr` is the word's number. -/
def execDirtyBitmapFetchClear (s : State) : Host.Outcome State Fault Refusal :=
  .next (let (hit, s) := s.fetchClear s.input.addr none
    s.answer (.bitmap s.input.addr (BitVec.ofNat 64 (maskOf (hit.map (· % 64))))))

/-! Migration (29 R430-R432). -/

/-- A job enters a state, and its tenant hears of it (29 R421). -/
def State.migrState (s : State) (ctx n : Nat) : State :=
  (s.modCtx ctx fun x => { x with migr := { x.migr with state := n } }).irq (s.ctx ctx).tenant 18
/-- The first virtual address of a context that maps a frame. -/
def State.frameVa (s : State) (ctx f : Nat) : Nat :=
  ((s.leaves 4 (s.ctx ctx).root.toNat 0).findSome? fun (page, l, e) =>
    let first := leafKey s.devno e l 0 / 4096
    if first ≤ f && f < first + 2 ^ (9 * l) then some (4096 * (page + (f - first))) else none).getD 0
/-- 29 R431: one frame is read at its home slices and sent, to the endpoint of the peer table (R425). -/
def State.sendFrame (s : State) (ctx round f : Nat) : State :=
  let m := (s.ctx ctx).migr
  let key := tget s.keys m.key 0
  let n := tget s.keyCounts key.toNat 0
  let iv := m.job % 2 ^ 32 * 2 ^ 64 + n % 2 ^ 64
  let (cid, s) := s.newCid 770
  let head := leBytes 64 (Config.frameHeader ctx round (s.frameVa ctx f) f 4096).toNat
  let sealed := Config.gcmSeal key iv head (s.bytes (4096 * f) 4096)
  { s with keyCounts := tset s.keyCounts key.toNat (n + 1) }.answer
    (.transfer cid m.peer (tget? (s.ctx ctx).peers m.peer) iv (head ++ leBytes 4096 sealed.1.toNat ++ leBytes 16 sealed.2.toNat))
/-- The frames that a round has taken are sent in order, each once its lines may be read (12 R217). -/
def State.sendTodo (s : State) (ctx : Nat) : State :=
  let rec go (n : Nat) (s : State) : State :=
    match n, (s.ctx ctx).migr.todo with
    | n + 1, (r, f) :: rest =>
      if !s.clearRead 770 (4096 * f) 4096 || !s.roomAt 770 then s
      else go n ((s.modCtx ctx fun x => { x with migr := { x.migr with todo := rest } }).sendFrame ctx r f)
    | _, _ => s
  go (s.ctx ctx).migr.todo.length s
def State.sendFrames (s : State) (ctx : Nat) (l : List Nat) : State :=
  (s.modCtx ctx fun x => { x with migr := { x.migr with todo := x.migr.todo ++ l.map fun f => (x.migr.round, f) } }).sendTodo ctx
/-- A round after round 0: every frame found dirty. -/
def State.round (s : State) (ctx : Nat) : State :=
  let frames := s.framesOf ctx
  let words := ((s.dirty.filter (inFrames frames)).map (· / 64)).eraseDups
  let (hit, s) := words.foldl (fun (l, s) w => let (h, s) := s.fetchClear w (some ctx); (l ++ h, s)) (([] : List Nat), s)
  let own := (hit.filter (inFrames frames)).foldl sadd ((s.ctx ctx).migr.found.filter (inFrames frames))
  let s := s.modCtx ctx fun x => { x with migr := { x.migr with round := min 4095 (x.migr.round + 1), found := [], frames := frames } }
  s.sendFrames ctx own

/-- 29 R427: are the pre-copy engine and the Ultra Ethernet ports usable? -/
def State.precopyUp (s : State) : Bool := s.readyReg.getLsbD 12 && s.readyReg.getLsbD 13
/-- MIGRATION_START: round 0 sends every frame. -/
def execMigrationStart (s : State) : Host.Outcome State Fault Refusal :=
  .next (let c := s.input.ctx
    let m := (s.ctx c).migr
    if !s.precopyUp || (1 ≤ m.state && m.state ≤ 3) || (tget? (s.ctx c).peers s.input.peer).isNone then s else
    let s := s.modCtx c fun x => { x with migr := { peer := s.input.peer, key := s.input.q, job := s.input.id, busy := m.busy } }
    let s := s.migrState c 1
    s.sendFrames c ((s.framesOf c).flatMap fun r => (List.range r.2).map (r.1 + ·)))
/-- 30 R434: do saved teams that a refused stop left still wait for their restore? -/
def State.stopOpen (s : State) (ctx : Nat) : Bool := (s.ctx ctx).migr.refused.any fun k => (tget? s.saves k).any (!·.refused)
/-- MIGRATION_ROUND: not before the teams of a refused stop are restored (30 R434). -/
def execMigrationRound (s : State) : Host.Outcome State Fault Refusal :=
  .next (if (s.ctx s.input.ctx).migr.state ≠ 1 || s.stopOpen s.input.ctx then s else s.round s.input.ctx)
/-- The slots that a context's teams use. -/
def State.slotsOf (s : State) (ctx : Nat) : List Nat :=
  s.cores.flatMap fun (c, k) => k.slots.filterMap fun (n, x) => if x.st ≠ .free && bindCtx x.w0 == ctx then some (16 * c + n) else none
/-- MIGRATION_STOP: the context is pre-empted; not before the teams of a refused stop are restored (30 R434). -/
def execMigrationStop (s : State) : Host.Outcome State Fault Refusal :=
  .next (let c := s.input.ctx
    if (s.ctx c).migr.state ≠ 1 || s.stopOpen c then s else
    let s := s.migrState c 2
    overAll (s.slotsOf c).zipIdx (fun s (tk, i) => s.slotCommand tk (some (s.input.words.getD i 0).toNat)) s)
/-- 21 R437: at the end of a job the entries that saved teams of the context left in their cores are released without a write. -/
def State.releaseSource (s : State) (ctx : Nat) : State :=
  let mine (a : Access) : Bool := a.stage == .retracted && a.save.any fun k => (tget? s.saves k).any fun v => v.ctx == ctx && !v.refused
  { s with accs := s.accs.filter fun x => !mine x.2 }
/-- 29 R432: what the final stop sends of a context. -/
def State.contextSent (s : State) (ctx cid : Nat) : OutMsg :=
  let records := (s.saves.filter fun e => e.2.ctx == ctx && e.2.written && !e.2.refused).map fun e => s.bytes e.2.addr e.2.record.length
  let block : List Reg := [.fqbase ctx, .fqsize ctx, .fqhead ctx, .fqtail ctx, .fqdrop ctx, .resolve ctx, .root ctx, .invva ctx, .invctl ctx,
                           .invstat ctx]
  let queues := s.tenants.flatMap fun (t, x) => (x.queues.filter fun e => e.2.ctx == ctx).map fun (q, _) =>
    [Reg.qbase t q, .qsize t q, .qhead t q, .qtail t q, .qctx t q, .qbad t q]
  let placed := (s.enqs.filter fun e => e.ctx == ctx).map fun e => (e.addr, e.graph)
  let cards := (s.cards.filter fun e => e.2.ctx == ctx && e.2.queue ≠ 0 && e.2.ending == 0 && (e.2.st == .queued || e.2.st == .waiting || e.2.st == .ready)).map
    fun e => (e.2.addr, false)
  .context cid ctx records (block.map s.readReg) (queues.map fun l => l.map s.readReg) (cards ++ placed)
/-- The stop goes on once no slot holds the context (29 R432): refused, or the last round and the end; the end waits for what is
still on its way. -/
def State.migrStop (s : State) (ctx : Nat) : State :=
  let m := (s.ctx ctx).migr
  if m.state == 2 then
    if !(s.slotsOf ctx).isEmpty then s
    else if (s.insts.any fun e => e.2.active && e.2.ctx == ctx) || s.accums.any fun e => e.2.ctx == ctx then
      (s.modCtx ctx fun x => { x with migr := { x.migr with busy := true, refused := (s.saves.filter fun e => e.2.ctx == ctx).map (·.1) } }).migrState ctx 1
    else (s.migrState ctx 3).round ctx
  else if m.state == 3 then
    if !m.todo.isEmpty then s else
    if !m.sent then
      let (cid, s) := s.newCid 770
      (s.modCtx ctx fun x => { x with migr := { x.migr with sent := true } }).answer (s.contextSent ctx cid)
    else if s.accs.any fun a => a.2.ctx == ctx && (a.2.src < 768 || a.2.src == launcher) &&
        (match a.2.stage with | .net _ _ | .performed => true | _ => false) then s
    else (s.releaseSource ctx).migrState ctx (if m.late == 0 then 4 else 5)
  else s
def State.migrStops (s : State) : State := overAll (tkeys s.ctxs) (fun s c => (s.sendTodo c).migrStop c) s

/-- 29 R432: a saved team comes from another device, for a restore under 21 R345. The numbers of its accesses, operations and copies are
the model's own and must be new here, as log 5 says. -/
def State.takeSaved (s : State) (v : Save) : State :=
  let ids := tkeys v.accs ++ tkeys v.ops ++ tkeys v.copies ++ [v.team.uid]
  if ids.any (· < s.nextId) then s else
  let id := ids.foldl max s.nextId + 1
  { s with saves := tset s.saves id { v with written := true, refused := false, told := false }, nextId := id + 1 }
/-- A transfer that has come, taken now, none where it waits for a line. -/
def State.transferNow (s : State) : Option State :=
  let iv := s.input.count % 2 ^ 32 * 2 ^ 64 + s.input.value.toNat
  match Config.gcmOpen (tget s.keys s.input.id 0) iv s.input.header s.input.bytes with
  | none =>
    some ((s.emit 770 { typ := 0, b0 := Config.tagRecord.toNat, core := 770, f24 := s.input.addr, dt := s.dt }).answer (.resend s.input.cid iv))
  | some l =>
    let f := s.input.addr / 4096
    if !s.runFree .migrationTransfer 770 { key := 4096 * f, len := 4096, writes := true } then none else
    let round := Config.headerRound s.input.header
    let old := match tget? s.received f with | some (job, r) => job == s.input.count && round < r | none => false
    let s := match s.input.saved with | some v => s.takeSaved v | none => s
    some (if old then s else
      { s.outsideWrite 770 (4096 * f) (leBytes 4096 l.toNat) .engine (some s.input.cid) with received := tset s.received f (s.input.count, round) })
/-- MIGRATION_TRANSFER: a receiver checks the tag and writes the frame; a later round's copy stands (30, R431). -/
def execMigrationTransfer (s : State) : Host.Outcome State Fault Refusal :=
  .next (if !s.precopyUp then s else s.orWait .migrationTransfer s.transferNow)
/-- The accesses from outside that wait are made as far as their lines allow. -/
def State.retryOutside (s : State) : State :=
  s.deferred.foldl (fun s (i, x) =>
    let t := { s with input := x }
    let now := match i with | .hostAccess => t.hostNow | .remoteAccess => t.remoteNow | .bindRecordWrite => t.bindNow | _ => t.transferNow
    match now with
    | some u => { u with input := s.input }
    | none => { s with deferred := s.deferred ++ [(i, x)] }) { s with deferred := [] }
/-- MIGRATION_KEY_LOAD, by verified firmware alone (29 R428). -/
def execMigrationKeyLoad (s : State) : Host.Outcome State Fault Refusal :=
  .next (if s.fwRunning then { s with keys := tset s.keys s.input.id s.input.key } else s)

/-! Bring-up (29 R426-R429; 00 R10). -/

/-- The largest DT of a record in the store. -/
def State.lastDt (s : State) : Nat :=
  let slots := ((s.trace.map fun e => (e.1 - 4096) / 64)).eraseDups
  (slots.map fun i => leNat (mgets s.trace (4096 + 64 * i + 40) 8)).foldl max 0
/-- What survives a device reset or a power cycle: the sillage store, what is fused, and the model's own counters. -/
def State.afresh (s : State) : State :=
  { State.reset with dt := s.dt, clusters := (List.range 36).map fun n => (n, { next := s.dt + 2 ^ 20 }), free := s.free, agenda := s.agenda, input := s.input, nextId := s.nextId, fwCounter := s.fwCounter,
                     trace := s.trace, damaged := s.damaged, windex := s.windex, resets := s.resets, keyCounts := s.keyCounts }
/-- POWER_ON: DT is loaded, before the recorder reports ready. -/
def execPowerOn (s : State) : Host.Outcome State Fault Refusal :=
  .next (let t : Nat := match s.input.time with
      | some t => t.toNat
      | none => if s.windex == 0 then 0 else s.lastDt + 2 ^ 32
    ({ s with dt := t } : State).afresh)
/-- DEVICE_RESET: DT and memory stay; the recorder counts the reset and marks it. -/
def execDeviceReset (s : State) : Host.Outcome State Fault Refusal :=
  .next (let cids : Tbl Source := s.sources.map fun (n, x) => (n, { x with buf := [], drops := 0 })
    let r : State := { s.afresh with mem := s.mem, poison := s.poison, sources := cids, resets := s.resets + 1 }
    r.emit 768 { typ := 16, core := 768, f24 := s.resets + 1, dt := s.dt })
/-- 29 R427: the bring-up of a function is recorded. -/
def State.bringUp (s : State) (b : Nat) : State := s.emit 768 { typ := 0, b0 := (Config.bringUpRecord b).toNat, core := 768, dt := s.dt }
/-- May a function's READY bit be set: it has not failed, and the recorder's is set, or has failed, or is the function? -/
def State.mayReady (s : State) (b : Nat) : Bool :=
  !s.failedReg.getLsbD b && (b == 0 || s.readyReg.getLsbD 0 || s.failedReg.getLsbD 0)
/-- SELF_TEST_COMPLETE: a function is usable, or has failed; none is ready before the recorder is, unless that has failed, and FW is set
for firmware that runs (29 R426). -/
def execSelfTestComplete (s : State) : Host.Outcome State Fault Refusal :=
  .next (let b := s.input.id
    if 15 ≤ b then s else
    let m : Word := 1 <<< b
    let s := if b == 0 then s else s.bringUp b
    if !s.input.flag then { s with failedReg := if s.readyReg.getLsbD b then s.failedReg else s.failedReg ||| m }
    else if !s.mayReady b || (b == 1 && !s.fwRunning) then s
    else { s with readyReg := s.readyReg ||| m })
/-- FIRMWARE_BOOT: the image `bytes` of version `value` is run, or the device stays in recovery. FW is set where it may be; else by its
SELF_TEST_COMPLETE (log 77). -/
def execFirmwareBoot (s : State) : Host.Outcome State Fault Refusal :=
  .next (if Config.imageVerifies s.input.bytes && s.fwCounter.toNat ≤ s.input.value.toNat then
      let s := { s with fwRunning := true, fwVersion := s.input.value, fwImage := s.input.bytes }
      if s.mayReady 1 then { s.bringUp 1 with readyReg := s.readyReg ||| 2 } else s
    else { s with fwRunning := false, readyReg := s.readyReg &&& ~~~(2 : Word) })
/-- ATTESTATION_REQUEST: the report on the nonce `bytes`. -/
def execAttestationRequest (s : State) : Host.Outcome State Fault Refusal :=
  .next (if !s.fwRunning then s else
    let body := (s.input.bytes ++ List.replicate 32 0).take 32 ++ leBytes 8 Config.devId.toNat ++ leBytes 8 s.fwVersion.toNat ++
      leBytes 96 (Config.measurements s.fwImage).toNat
    s.answer (.report (body ++ leBytes 64 (Config.sm2Sign body).toNat)))

/-! Tile-store injection (15 R281). -/

/-- XOR a mask into a byte of a range. -/
def State.inject (s : State) (tk k off : Nat) (mask : Byte) : State :=
  let r := s.range tk k
  s.setRange tk k { r with bytes := mset r.bytes off (mget r.bytes off ^^^ mask) }
/-- Is an injection refused: the handle empty, or the offset beyond its range? -/
def State.noInjection (s : State) : Bool := (s.team s.input.tk).isNone || 512 * (s.range s.input.tk s.input.id).gran ≤ s.input.addr
/-- An injection with its place among its team's words, for a replay (log 31): the number of words that each group has made. -/
def State.noteInjection (s : State) (x : Input) : Input :=
  match s.team x.tk with
  | some m => { x with words := m.groups.map fun e => BitVec.ofNat 64 e.2.words }
  | none => x
/-- TS_INJECTION: team slot `tk`, handle `id`, offset `addr`, `mask`; its event carries offset, and mask, handle and slot in DETAIL
(log 31). -/
def execTsInjection (s : State) : Host.Outcome State Fault Refusal :=
  .next (if s.noInjection then s else
    let s := s.inject s.input.tk s.input.id s.input.addr s.input.mask
    s.emit 768 { typ := 0, b0 := 60 + 256 * kEvent, core := coreOf s.input.tk, f24 := s.input.addr, dt := s.dt
                 f48 := 2 ^ 32 * (s.input.mask.toNat + 2 ^ 8 * s.input.id + 2 ^ 12 * (s.input.tk % 16)) })

end Sys2Proof.Machine
end

