-- ==== Sys2Proof/Machine/Lanes.lean ====
section
/-! DEFINITION. Lane operations of class L: exchanges, votes, scans and reductions, and the seed of the rounding state (09
R153, R176-R179). -/

namespace Sys2Proof.Machine

/-- 09 R153: segment width of a code. -/
def segWidth (c : Nat) : Nat := 32 / 2 ^ (c % 8)
/-- 09 R153: segment base. -/
def segBase (w t : Nat) : Nat := t - t % w

/-- 09 R176: the kinds of exchange. -/
inductive Exch where
  | xfrom | xlow | xhigh | xpair
deriving DecidableEq, Repr

/-- 09 R176: the lane that thread `t` reads under count `n`. -/
def Exch.lane (x : Exch) (w t n : Nat) : Nat :=
  let sb := segBase w t
  let r := t - sb
  match x with
  | .xfrom => sb + n % w
  | .xlow => sb + (r + w - n % w) % w
  | .xhigh => sb + (r + n) % w
  | .xpair => t ^^^ (n % w)

/-- 09 R176: an exchange; a source that is not read takes no part in poison. -/
def State.exchange (s : State) (f : FR) (x : Exch) : State :=
  let (s, ps) := s.parts f.ext
  match s.cur with
  | none => s
  | some i =>
    let w := segWidth (immOf f.ext)
    let rs := ps.map fun t =>
      let b := s.src i kInt t f.b.toNat
      let j := x.lane w t (b.val.toNat % 32)
      let v := if j ∈ ps then s.src i kInt j f.a.toNat else s.src i kInt t (thirdOf f.ext)
      (t, [if b.poison then poisoned else v])
    s.finish i f.w f.d.toNat rs

def execXfrom (f : FR) (s : State) : Host.Outcome State Fault Refusal := .next (s.exchange f .xfrom)
def execXlow (f : FR) (s : State) : Host.Outcome State Fault Refusal := .next (s.exchange f .xlow)
def execXhigh (f : FR) (s : State) : Host.Outcome State Fault Refusal := .next (s.exchange f .xhigh)
def execXpair (f : FR) (s : State) : Host.Outcome State Fault Refusal := .next (s.exchange f .xpair)

/-- 09 R177: the participating threads of a thread's segment. -/
def segment (w : Nat) (ps : List Nat) (t : Nat) : List Nat := ps.filter fun j => segBase w j == segBase w t

/-- 09 R177: the predicate source of a thread. -/
def State.psrc (s : State) (i : Issue) (im t : Nat) : PBool :=
  ((s.thread i.tk i.g t).getD {}).predN (im % 8) (im.testBit 3)

/-- 09 R177: a vote with a predicate result. -/
def State.vote (s : State) (f : FR) (all : Bool) : State :=
  let (s, ps) := s.parts f.ext
  match s.cur with
  | none => s
  | some i =>
    let im := immOf f.ext
    let w := segWidth (field im 4 3)
    let rs := ps.map fun t =>
      let vs := (segment w ps t).map (s.psrc i im)
      (t, { val := if all then vs.all (·.val) else vs.any (·.val), poison := vs.any (·.poison) : PBool })
    let s := overAll rs (fun s r => s.modThread i.tk i.g r.1 fun th => th.setPred f.d.toNat r.2) s
    s.shiftEmpty

def execVany (f : FR) (s : State) : Host.Outcome State Fault Refusal := .next (s.vote f false)
def execVall (f : FR) (s : State) : Host.Outcome State Fault Refusal := .next (s.vote f true)
def execVballot (f : FR) (s : State) : Host.Outcome State Fault Refusal :=
  let (s, ps) := s.parts f.ext
  .next (match s.cur with
  | none => s
  | some i =>
    let im := immOf f.ext
    let w := segWidth (field im 4 3)
    let rs := ps.map fun t =>
      let js := segment w ps t
      (t, [pw (wn (maskOf (js.filter fun j => (s.psrc i im j).val))) (js.any fun j => (s.psrc i im j).poison)])
    s.finish i f.w f.d.toNat rs)

/-- 09 R178: a scan or reduction of participating values with an operation and its identity. -/
def State.gather (s : State) (f : FR) (scan : Bool) (op : Word → Word → Word) (identity : Word) : State :=
  let (s, ps) := s.parts f.ext
  match s.cur with
  | none => s
  | some i =>
    let im := immOf f.ext
    let w := segWidth im
    let rs := ps.map fun t =>
      let js := (segment w ps t).filter fun j => !scan || j < t || (j == t && !im.testBit 3)
      let vs := js.map fun j => s.src i kInt j f.a.toNat
      (t, [pw (vs.foldl (fun v x => op v x.val) identity) (vs.any (·.poison))])
    s.finish i f.w f.d.toNat rs

/-- 09 R178: identities of maximum and minimum. -/
def maxId (f : FR) : Word := if isU f then 0 else 0x80000000
def minId (f : FR) : Word := if isU f then 0xFFFFFFFF else 0x7FFFFFFF

def execScanadd (f : FR) (s : State) : Host.Outcome State Fault Refusal := .next (s.gather f true (· + ·) 0)
def execScanxor (f : FR) (s : State) : Host.Outcome State Fault Refusal := .next (s.gather f true (· ^^^ ·) 0)
def execScanmax (f : FR) (s : State) : Host.Outcome State Fault Refusal :=
  .next (s.gather f true (imaxOf (isU f)) (maxId f))
def execScanmin (f : FR) (s : State) : Host.Outcome State Fault Refusal :=
  .next (s.gather f true (iminOf (isU f)) (minId f))
def execRedadd (f : FR) (s : State) : Host.Outcome State Fault Refusal := .next (s.gather f false (· + ·) 0)
def execRedmax (f : FR) (s : State) : Host.Outcome State Fault Refusal :=
  .next (s.gather f false (imaxOf (isU f)) (maxId f))
def execRedmin (f : FR) (s : State) : Host.Outcome State Fault Refusal :=
  .next (s.gather f false (iminOf (isU f)) (minId f))
def execRedxor (f : FR) (s : State) : Host.Outcome State Fault Refusal := .next (s.gather f false (· ^^^ ·) 0)

/-- 09 R179, 03 R64: 0 is stored as 1; a poisoned seed leaves SRS unchanged. -/
def execSrseed (f : FR) (s : State) : Host.Outcome State Fault Refusal :=
  let (s, ps) := s.parts f.ext
  .next (match s.cur with
  | none => s
  | some i =>
    let s := overAll (ps.map fun t => (t, s.src i kInt t f.a.toNat)) (fun s r =>
      if r.2.poison then s else
      s.modThread i.tk i.g r.1 fun th => { th with srs := if r.2.val == 0 then 1 else r.2.val }) s
    s.shiftEmpty)

end Sys2Proof.Machine
end

