-- ==== Sys2Proof/Machine/Repair.lean ====
section
/-! DEFINITION. Reliability (25; 29 R433): strikes and the replay of a core (R379-R384), engines (R385), codes and the scrubber (R386),
lane sparing (R387-R390), replacement in service (R391), ageing, power and thermal clock steps (R392-R394). -/

namespace Sys2Proof.Machine

/-! Replay (25 R380-R382). -/

/-- The version of an access that a replay goes on with: as it stands, or as it stood last, under no park that its group no longer
has. -/
def State.latest (s : State) (cps : List Checkpoint) (parks : List Park) (id : Nat) (a : Access) : Access :=
  let ok (x : Access) : Bool := match x.stage with | .parked p => parks.any (·.id == p) | _ => true
  let all := (tget? s.accs id).toList ++ cps.reverse.filterMap fun c => tget? c.accs id
  (all.find? ok).getD a
/-- A copy goes back: pieces that were asked for are to be asked for again; a job written whose write is acknowledged is done, unless it
wrote storage of the core, which goes back as well. -/
def State.copyBack (s : State) (cp : Checkpoint) (cid : Nat) (c : Copy) : Copy :=
  let of (l : Tbl Access) (g job : Nat) : Option Access := (l.find? fun x => x.2.owner == .copy cid g job && !x.2.isLoad).map (·.2)
  let back (g : Nat) (e : Nat × Job) : Option (Nat × Job) :=
    let redo : Job := { e.2 with written := false, pieces := e.2.pieces.map fun p => if p.st == .asked then { p with st := .todo } else p }
    if !e.2.written then some (e.1, redo)
    else if (of s.accs g e.1).isSome then some e
    else if (of cp.accs g e.1).any (·.space == .sh) then some (e.1, redo) else none
  { c with slices := c.slices.map fun (g, x) => (g, { x with jobs := x.jobs.filterMap (back g) }) }
/-- A team goes back to how it stood at a checkpoint: its own state; its accesses, whose outside effects stand; its instructions not
completed; its copies and its clauses. What engines pushed since then is kept. -/
def State.rollTeam (s : State) (cps : List Checkpoint) (core tk : Nat) (cp : Checkpoint) (old : Team) : State :=
  match s.team tk with
  | none => s
  | some m =>
    let late := m.pushed.filter fun x => cp.dt ≤ x.1
    let q := late.foldl (fun t x => tset t x.2.1 (tget t x.2.1 [] ++ [clean x.2.2])) old.q
    let qwait := m.qwait.map fun (n, l) => (n, if n == 1 then l.filter fun e => e.1 < cp.dt else l)
    let team : Team := { old with wdClock := m.wdClock, pushed := m.pushed, q := q, qwait := qwait, drain := m.drain }
    let parks (g : Nat) : List Park := (team.group g).parks
    let accs := (cp.accs.filter fun x => x.2.tk == tk).filterMap fun (id, a) =>
      if a.isCommand then (tget? s.accs id).map fun x => (id, x)
      else if a.space == .sh || a.isMark then some (id, a)
      else some (id, s.latest cps (parks a.g) id a)
    let ops := (cp.ops.filter fun o => o.2.tk == tk).map fun (k, o) =>
      (k, if cp.accs.any fun x => x.2.isCommand && x.2.op == some k then
            { o with left := match tget? s.ops k with | some x => x.left | none => 0 } else o)
    let mine (c : Nat × Copy) : Bool := c.2.team == some tk
    let ids := (s.copies.filter mine).map (·.1) ++ (cp.copies.filter mine).map (·.1)
    let cnts := (cp.copies.filter mine).flatMap fun c => c.2.real.filterMap fun x => x.desc.map fun (d : Desc) => d.cnt
    let young (a : Access) : Bool := cp.dt ≤ a.dt && (match a.stage with | .net _ _ | .core => true | _ => false)
    let gone (a : Access) : Bool :=
      (a.src == core && a.tk == tk) ||
      (match a.owner with | .copy cid _ _ => ids.contains cid && (a.isLoad || young a) | _ => false) ||
      (a.kind == .count && 512 ≤ a.src && a.src < 516 && young a && cnts.contains a.va)
    let accs' := accs.foldl (fun (t : Tbl Access) e => tset t e.1 e.2) (s.accs.filter fun x => !gone x.2)
    let ops' := ops.foldl (fun (t : Tbl Op) e => tset t e.1 e.2) (s.ops.filter fun o => o.2.tk ≠ tk)
    let issues' := (s.issues.filter fun (i : Issue) => i.tk ≠ tk) ++ cp.issues.filter fun (i : Issue) => i.tk == tk
    let s := { s with teams := tset s.teams tk team, accs := accs', ops := ops', issues := issues' }
    let copies' := (cp.copies.filter mine).foldl (fun (t : Tbl Copy) e => tset t e.1 (s.copyBack cp e.1 e.2)) (s.copies.filter fun c => !mine c)
    { s with copies := copies' }

/-- L1 copies that stand now as they stood then, with the words they held then (R384; 07 R124): copies gone or fetched anew since
then do not come back. -/
def l1Back (old cur : Tbl L1Line) : Tbl L1Line :=
  cur.filterMap fun (l, x) => match tget? old l with
    | some y => if y.le ≠ x.le then none else
        some (l, { x with words := y.words, valid := y.valid.filter (x.valid.contains ·), owned := y.owned.filter (x.owned.contains ·) })
    | none => none
/-- Commands that reached a core in the window are taken again: those of the debugger to its teams, and of RESOLVE to its contexts. -/
def State.retake (s : State) (core first : Nat) : State :=
  let here (tk : Nat) : Bool := coreOf tk == core && tk < 4608
  let again := (s.recent.filter fun e => first ≤ e.1).filter fun (_, i, x) => match i with
    | .debugHalt | .debugResume | .debugStep => s.teams.any fun e => here e.1 && e.2.named x.target
    | .resolveReplay | .resolveFail | .resolveKill => s.teams.any fun e => here e.1 && e.2.ctx == x.ctx
    | _ => false
  { s with agenda := (again.map fun e => (e.2.1, e.2.2)) ++ s.agenda, recent := s.recent.filter fun e => !again.contains e }
/-- 16 R281: a replay does not undo an injection: those of the window, and those that an earlier replay has still to make, are made
again when the replay has come to their place: every word that had been made before is made again. -/
def State.redoLater (s : State) (core first : Nat) : State :=
  let here (x : Input) : Bool := coreOf x.tk == core && x.tk < 4608
  let late := s.recent.filter fun e => e.2.1 == .tsInjection && first ≤ e.1 && here e.2.2
  { s with recent := s.recent.filter fun e => !late.contains e, redo := s.redo ++ late.map fun e => e.2.2 }
/-- Has a team made again the words that it had made before an injection: is each of its groups past them, or at its end? -/
def Team.past (m : Team) (words : List Dword) : Bool :=
  m.groups.zipIdx.all fun ((_, x), i) => x.notExited.isEmpty || (words.getD i 0).toNat ≤ x.words
/-- Injections that a replay has come to are made, where the handle still holds the byte. -/
def State.redoDue (s : State) : State :=
  let due (x : Input) : Bool := match s.team x.tk with | some m => m.past x.words | none => true
  if !s.redo.any due then s else
  overAll (s.redo.filter due) (fun s x =>
    if (s.team x.tk).isNone || 512 * (s.range x.tk x.id).gran ≤ x.addr then s else
    { s.inject x.tk x.id x.addr x.mask with recent := s.recent ++ [(s.dt, .tsInjection, s.noteInjection x)] })
    { s with redo := s.redo.filter fun x => !due x }
/-- 25 R382: a team whose save began in the window stands in its slot again, draining, where its core still has what it needs (00 R3; log
115); the words of its record are discarded. -/
def State.unsave (s : State) (first tk : Nat) : State :=
  let slot := s.slot tk
  match slot.saved.bind fun k => (tget? s.saves k).map fun v => (k, v) with
  | none => s
  | some (k, v) =>
    if slot.st ≠ .saving || v.dt < first || s.lack (coreOf tk) v.team.need ≠ 0 then s else
    let back (a : Access) : Access := if a.save != some k then a else
      { a with tk := tk, save := none, stage := if a.stage == .retracted then .core else a.stage }
    let accs := (s.accs.filter fun x => x.2.owner != .save k).map fun (id, a) => (id, back a)
    let put (t : Tbl Access) (e : Nat × Access) : Tbl Access := if (tget? t e.1).isSome then t else tset t e.1 { e.2 with ghost := none }
    let s : State := { s with
      teams := tset s.teams tk { v.team with drain := true }, saves := terase s.saves k, accs := v.accs.foldl put accs,
      ops := v.ops.foldl (fun t e => tset t e.1 e.2) s.ops, copies := v.copies.foldl (fun t e => tset t e.1 e.2) s.copies }
    s.setSlot tk { slot with st := .draining, saved := none }
/-- A core goes back to how it stood 64 ticks ago and issues again 24 cycles from now (R393). -/
def State.rollback (s : State) (core : Nat) : State :=
  let first := s.dt - Config.quarantine
  let all := tget s.checks core []
  let cps := all.filter fun c => first ≤ c.dt
  match cps with
  | [] => s.modCore core fun c => { c with stop := s.dt + s.cycles core 24 }
  | cp :: _ =>
    let s := overAll ((List.range 16).map (16 * core + ·)) (fun s tk => s.unsave first tk) s
    let tks := (s.teams.filter fun e => coreOf e.1 == core && e.1 < 4608 && (s.slot e.1).st != .ending).map (·.1)
    let s := overAll tks (fun s tk =>
      match s.team tk with
      | none => s
      | some m =>
        let same (c : Checkpoint) : Option (Checkpoint × Team) := match tget? c.teams tk with
          | some x => if x.uid == m.uid then some (c, x) else none
          | none => none
        match cps.findSome? same with
        | some (c, old) => s.rollTeam cps core tk c old
        | none => s) s
    let bound (tk : Nat) : Bool := (tget? s.teams tk).isSome
    let s := s.modCore core fun c => { c with
      rsv := cp.core.rsv.filter fun r => bound r.tk
      latch := cp.core.latch.filter fun d => bound d.tk
      arrays := cp.core.arrays, cmps := cp.core.cmps, wpts := cp.core.wpts
      l1 := l1Back cp.core.l1 c.l1
      mboxOut := c.mboxOut.filter fun r => r.dt < first
      stop := s.dt + s.cycles core 24 }
    let x := tget s.sources core {}
    let cut := x.buf.filter fun r => first ≤ r.dt
    let x := { x with buf := x.buf.filter fun r => r.dt < first, seq := match cut with | r :: _ => r.seq | [] => x.seq }
    { s with turn := false, sources := tset s.sources core x, checks := tset s.checks core ((all.filter fun c => c.dt < first) ++ [cp]) }

/-! What a region asks for besides (25 R384, R387, R388). -/

/-- The threads resident on a lane of a slice: groups and their thread. -/
def State.residents (s : State) (core slice lane : Nat) : List (Nat × Nat × Nat) :=
  (s.teams.filter fun e => coreOf e.1 == core && e.1 < 4608).flatMap fun (tk, m) =>
    (m.groups.filter fun e => e.1 % 4 == slice / 8 && !e.2.retired).map fun (g, _) => (tk, g, 4 * (slice % 8) + lane)
/-- Every thread on a lane is killed. -/
def State.killLane (s : State) (core slice lane cause : Nat) : State :=
  overAll (s.residents core slice lane) (fun s (tk, g, t) => match s.thread tk g t with
    | some th => if th.exited then s else s.killAll tk g [t] cause th.pc
    | none => s) s
/-- A lane is declared failed; the spare takes over at the slice's next clause boundary. -/
def State.laneFail (s : State) (core slice lane : Nat) : State :=
  let x := s.sliceSt core slice
  s.setSliceSt core slice { x with failing := if x.failing.contains lane then x.failing else x.failing ++ [lane] }
/-- The XOR of two registers, poison bits as well. -/
def xorReg (x y : PWord) : PWord := { val := x.val ^^^ y.val, poison := x.poison != y.poison }
/-- 25 R387: what the spare holds of a register slot of the threads of a group on a slice: the XOR of the four lanes, poison bits as well.
Every write keeps it, so that it is no state of its own. -/
def Group.parity (m : Group) (q slot : Nat) : PWord :=
  (List.range 4).foldl (fun x i => xorReg x (tget (m.thread (4 * q + i)).v slot (clean 0))) (clean 0)
/-- Each register of a lane is set to the XOR of the spare's slot and the three other lanes'. -/
def Group.rebuildLane (m : Group) (q lane : Nat) : Group :=
  { m with th := tmod m.th (4 * q + lane) fun th => { th with v := th.v.map fun (slot, _) =>
      (slot, (List.range 4).foldl (fun x i => if i == lane then x else xorReg x (tget (m.thread (4 * q + i)).v slot (clean 0))) (m.parity q slot)) } }
/-- The registers of the threads resident on a lane are rebuilt. -/
def State.rebuildRegs (s : State) (core slice lane : Nat) : State :=
  overAll (s.residents core slice lane) (fun s (tk, g, t) => s.modGroup tk g fun m => m.rebuildLane (t / 4) lane) s
/-- A lane's registers are rebuilt from the parity: 128 cycles (R393); twice within 2^30 ticks and the lane has failed. -/
def State.rebuild (s : State) (core slice lane : Nat) : State :=
  let x := s.sliceSt core slice
  let again := x.rebuilds.any fun e => e.1 == lane && s.dt < e.2 + 2 ^ 30
  let s := s.setSliceSt core slice { x with stop := s.dt + s.cycles core 128, rbcnt := min 255 (x.rbcnt + 1), rebuilds := x.rebuilds ++ [(lane, s.dt)] }
  let s := s.rebuildRegs core slice lane
  if again then s.laneFail core slice lane else s
def State.regionAction (s : State) (core : Nat) (r : Region) : State :=
  let tkOf (slot : Nat) : Nat := 16 * core + slot
  match r with
  | .lane k n => if (s.sliceSt core k).spused then s.killLane core k n 55 else (s.rebuild core k n).countCorrected (1024 + core)
  | .twoLanes k n n' => (s.killLane core k n 55).killLane core k n' 55
  | .spare k =>
    let x := s.sliceSt core k
    if x.spused then s.killLane core k x.splane 55 else s
  | .array _ | .tileStore | .homeSlice .. | .collAlu .. => s
  | .l1Bank b => s.modCore core fun c => { c with l1 := c.l1.filter fun e => Config.l1BankOf e.1 ≠ b }
  | .sharedBank ws => overAll ws (fun s (slot, w) => s.modTeam (tkOf slot) fun m => { m with shPoison := sadd m.shPoison (4 * w) }) s
  | .queueBank slot q es => s.modTeam (tkOf slot) fun m => { m with
      q := tmod m.q q fun l => l.zipIdx.map fun (x, i) => if es.contains i then poisoned else x }
  | .icache => s.modCore core fun c => { c with icache := [] }
  | .laneAlu k n =>
    let x := s.sliceSt core k
    let again := x.residue.any fun e => e.1 == n && s.dt < e.2 + 2 ^ 24
    let s := s.setSliceSt core k { x with residue := (x.residue.filter fun e => s.dt < e.2 + 2 ^ 24) ++ [(n, s.dt)] }
    if again then s.laneFail core k n else s
/-- 25 R386: a word that no longer holds its value: poison, in memory or in the accumulator that is open there. -/
def State.loseWord (s : State) (key : Nat) : State :=
  match (s.line (key / 128)).acc with
  | none => s.mark (4 * (key / 4)) true
  | some k => { s with accums := tmod s.accums k fun a =>
      let i := 1024 * (a.pages.findIdx? (· / 4096 == key / 4096)).getD 0 + key % 4096 / 4
      { a with tile := tset a.tile i { tget a.tile i (clean 0) with poison := true } } }
/-- 25 R386: what a home slice does about an error of its own. A line of another slice is not its concern. -/
def State.sliceError (s : State) (die slice : Nat) (e : SliceError) : State :=
  let here (line : Nat) : Bool := homeDie (128 * line) == die && !isRemote (128 * line) && s.homeSlice (128 * line) == slice
  let lose (s : State) (line : Nat) : State := overAll (List.range 32) (fun s i => s.loseWord (128 * line + 4 * i)) s
  match e with
  | .corrected | .residue => s.countCorrected (2 + 32 * die + slice)
  | .data l => if here l then lose s l else s
  | .tag l => if here l then (lose s l).revokeLines (· == l) else s
  | .residueTwice keys => overAll (keys.filter fun k => here (k / 128)) (fun s k =>
      let of := ((s.line (k / 128)).acc.bind (tget? s.accums)).map Accum.ctx
      let src := 640 + 32 * die + slice
      (s.loseWord k).emit src { typ := 0, b0 := 17 + 256 * kPoison, core := src, f24 := k, dt := s.dt, ctx := of }) s
/-- 25 R386: a residue mismatch of the ALU of a die's collective engine in the run of an entry: the operation is recomputed and counted; the
elements that mismatch a second time are poison in the results that have not left the engine (log 85), and are recorded. -/
def State.collResidue (s : State) (die k e : Nat) (twice : List Nat) : State :=
  match s.inst k, s.centry k e with
  | some i, some x =>
    if i.die ≠ die || x.st ≠ .writing then s else
    let s := s.countCorrected (1024 + collSrc die)
    if twice.isEmpty then s else
    let w := ((collFmt x.fmt).getD .f32).width / 8
    let hit (n : Nat) : Bool := twice.contains (n / w)
    let blank (o : Nat) (l : List Byte) : List Byte := l.zipIdx.map fun (b, j) => if hit (o + j) then 0 else b
    let write (a : Access) : Access :=
      let o := a.va - x.daddr
      { a with data := blank o a.data
               pois := (wordMarks a.key ((List.range a.width).map fun j => hit (o + j))).zipIdx.map fun (b, j) => b || a.pois.getD j false }
    let send (c : Contribution) : Contribution :=
      { c with data := blank 0 c.data
               poison := (List.range (c.data.length / 4)).filter fun n => c.poison.contains n || (List.range 4).any fun j => hit (4 * n + j) }
    let s : State := { s with
      accs := s.accs.map fun (id, a) => (id, if a.owner == .entry k e false && (match a.stage with | .net _ _ => true | _ => false) then write a else a)
      sending := s.sending.map fun c => if x.send && c.msg.cid == x.cid then { c with msg := send c.msg } else c }
    s.instFault i 17 kPoison (if x.write then x.daddr + w * twice.headD 0 else i.table) e
  | _, _ => s
/-- STRIKE_REPORT: of a core; a report of a home slice is not replayed: its codes and residues repair it (R385, R386). -/
def execStrikeReport (s : State) : Host.Outcome State Fault Refusal :=
  .next (let core := s.input.core
    let first := s.dt - Config.quarantine
    match s.input.region with
    | .homeSlice die slice e => s.sliceError die slice e
    | .collAlu die k e twice => s.collResidue die k e twice
    | r => (((s.rollback core).regionAction core r).retake core first).redoLater core first)

/-- 25 R385: the copy engine of a die does the work of the window again: what it has fetched since then, and the writes that have not
left it. -/
def State.redoCopies (s : State) (die first : Nat) : State :=
  let away (a : Access) : Bool := a.src == 512 + die && first ≤ a.dt && (match a.owner with | .copy .. => true | _ => false) &&
    (match a.stage with | .performed => false | .back _ => a.isLoad | _ => true)
  let s := { s with accs := s.accs.filter fun x => !away x.2 }
  let has (cid g job : Nat) (load : Bool) (va : Nat) : Bool := s.accs.any fun x =>
    x.2.owner == .copy cid g job && x.2.isLoad == load && (!load || x.2.va == va)
  { s with copies := s.copies.map fun (cid, (c : Copy)) => (cid, if c.die ≠ die then c else
      { c with slices := c.slices.map fun (g, (x : CSlice)) => (g, { x with jobs := x.jobs.map fun (n, (j : Job)) => (n,
          if j.written && has cid g n false 0 then j else
          { j with written := false, pieces := j.pieces.map fun p => match p.st with
            | .got _ _ (some t) => if first ≤ t then { p with st := .todo } else p
            | .asked => if has cid g n true p.src.toNat then p else { p with st := .todo }
            | _ => p }) }) }) }
/-- Counter adds and results of an engine that have not left it leave 64 ticks from now. -/
def State.redoSends (s : State) (src first : Nat) : State :=
  let mine := s.accs.filter fun x => x.2.src == src && first ≤ x.2.dt && !x.2.isLoad && (match x.2.stage with | .net _ _ => true | _ => false)
  overAll mine (fun s (id, a) =>
    let (t, s) := s.transit src a.key
    let (cid, s) := s.newCid src
    s.modAcc id fun a => { a with stage := .net (t + Config.quarantine) (portOf src a.key), dt := s.dt, cid := cid }) s
/-- 25 R385: the collective engine of a die makes again the runs of the window whose results it still has: their writes and contributions
are discarded, and their entries wait to run with the contributions that they took; a new contribution has a new causal id. -/
def State.redoRuns (s : State) (die first : Nat) : State :=
  let runs := s.insts.flatMap fun (k, i) => if i.die ≠ die || !i.active then [] else
    (i.entries.filter fun (_, x) => x.st == .writing && first ≤ x.ranAt && (!x.send || s.undelivered x)).map fun (e, x) => (k, e, x)
  overAll runs (fun s (k, e, x) =>
    let (cid, s) := if x.send then s.newCid (collSrc die) else (0, s)
    let s : State := { s with accs := s.accs.filter fun a => a.2.owner != .entry k e false
                              sending := s.sending.filter fun c => !(x.send && c.msg.cid == x.cid) }
    s.modEntry k e fun x => { x with st := .fired, contribs := x.used, ready := s.dt, cid := cid }) s
/-- ENGINE_STRIKE_REPORT (25 R385): the engine's work of the window is discarded and done again. -/
def execEngineStrikeReport (s : State) : Host.Outcome State Fault Refusal :=
  .next (let die := s.input.die
    let first := s.dt - Config.quarantine
    if s.input.flag then
      let s := (s.redoRuns die first).redoSends (collSrc die) first
      { s with ctxs := s.ctxs.map fun (c, x) => (c, { x with events := x.events.map fun (u, w, t) =>
                 (u, w, if first ≤ t && (s.teamAt u).any (fun tk => dieOf (coreOf tk) == die) then s.dt else t) }) }
    else
      let s := (s.redoCopies die first).redoSends (512 + die) first
      let again (e : Nat × List (Nat × Word)) : Nat × List (Nat × Word) :=
        (e.1, if e.1 == 1 then e.2.map fun (t, w) => (if first ≤ t then s.dt else t, w) else e.2)
      let s : State := { s with teams := s.teams.map fun (tk, (m : Team)) =>
        (tk, if dieOf (coreOf tk) ≠ die then m else { m with qwait := m.qwait.map again }) }
      s.copyWork)

/-! Lane sparing (25 R388, R389). -/

/-- LANE_FAIL_COMMAND: of the management core, or of a self-test at bring-up (log 111), for a lane that a core has (00 R2, R3). -/
def execLaneFailCommand (s : State) : Host.Outcome State Fault Refusal :=
  .next (if 288 ≤ s.input.core || 32 ≤ s.input.slice || 4 ≤ s.input.lane then s else s.laneFail s.input.core s.input.slice s.input.lane)
/-- LANE_TAKEOVER: at a clause boundary of the slice the spare takes the failed lane's registers, rebuilt (R387, R390), index and threads; a
second failed lane of the slice is lost with its threads. -/
def State.takeoverDue (s : State) (core slice : Nat) : Bool :=
  !(s.sliceSt core slice).failing.isEmpty &&
    !(s.issues.any fun i => coreOf i.tk == core && i.g % 4 == slice / 8 && i.cand.any fun t => t / 4 == slice % 8)
def execLaneTakeover (core slice : Nat) (s : State) : Host.Outcome State Fault Refusal :=
  .next (if !s.takeoverDue core slice then s else
    let x := s.sliceSt core slice
    match x.failing with
    | [] => s
    | n :: rest =>
      if x.spused then
        (s.setSliceSt core slice { x with failing := rest, lost := true }).killLane core slice n 54
      else
        let y : SliceSt := { x with failing := rest, splane := n, spused := true, rbcnt := min 255 (x.rbcnt + 1), stop := s.dt + s.cycles core 128 }
        let s := (s.setSliceSt core slice y).rebuildRegs core slice n
        s.emit core { typ := 12, b0 := slice + 2 ^ 16 * n, core := core, dt := s.dt })

/-! Storage and links (25 R386, R391). -/

/-- SCRUB_PASS: a line of HBM, or with `flag` of the trace memory. -/
def execScrubPass (s : State) : Host.Outcome State Fault Refusal :=
  .next (let l := s.input.line
    let note (s : State) (n : Nat) : State := s.emit 768 { typ := 14, b0 := n, core := 768, f24 := 128 * l, dt := s.dt }
    let count (s : State) : State := s.countCorrected (if s.input.flag then 1 else 0)
    match s.input.scrub with
    | .clean => s
    | .corrected => count (note (if s.input.flag then s else s.dirtyFrame (128 * l)) 0)
    | .uncorrectable =>
      if s.input.flag then
        let slots := ([0, 1].map fun k => 128 * l + 64 * k).filter (4096 ≤ ·)
        note { s with damaged := slots.foldl (fun d a => sadd d ((a - 4096) / 64)) s.damaged } 1
      else note ((List.range 32).foldl (fun s i => s.mark (128 * l + 4 * i) true) s) 1)

def State.modLink (s : State) (n : Nat) (f : LinkSt → LinkSt) : State := { s with links := tset s.links n (f (tget s.links n {})) }
/-- FLIT_RETRY: the flit is sent again; nothing else is seen of it. -/
def execFlitRetry (s : State) : Host.Outcome State Fault Refusal :=
  .next ((s.countCorrected (256 + s.input.link)).modLink s.input.link fun x => { x with retries := x.retries + 1 })
/-- LINK_LANE_SWAP: a spare lane is used; flits keep their order. -/
def execLinkLaneSwap (s : State) : Host.Outcome State Fault Refusal :=
  .next (s.modLink s.input.link fun x => { x with spares := x.spares + 1, retries := x.retries + 1 })
/-- LINK_FAILOVER: the traffic goes over the other routes of the peer, in order. -/
def execLinkFailover (s : State) : Host.Outcome State Fault Refusal := .next (s.modLink s.input.link fun x => { x with failed := true })

/-- SLICE_REPLACEMENT: once nothing performed at the slice is unacknowledged and no accumulator is open there, its lines are written
back, its leases revoked and its owners cleared, and they home at slice s xor 16. -/
def State.sliceQuiet (s : State) (die slice : Nat) : Bool :=
  let here (key : Nat) : Bool := homeDie key == die && !isRemote key && s.homeSlice key == slice
  !(s.accums.any fun e => here (128 * e.1)) &&
    !(s.accs.any fun x => x.2.space != .sh && here x.2.key && (match x.2.stage with | .performed | .back _ => true | _ => false))
def execSliceReplacement (s : State) : Host.Outcome State Fault Refusal :=
  .next (let die := s.input.die
    let n := s.input.slice
    let here (line : Nat) : Bool := homeDie (128 * line) == die && !isRemote (128 * line) && s.homeSlice (128 * line) == n
    if s.replaced.contains (32 * die + n) || s.replaced.contains (32 * die + (n ^^^ 16)) || !s.sliceQuiet die n then s else
    { s with
      lines := s.lines.map fun (l, x) => (l, if here l then { x with dirty := false, maxLE := 0, owners := [] } else x)
      cores := s.cores.map fun (c, k) => (c, { k with l1 := k.l1.filter fun e => !here e.1 })
      replaced := sadd s.replaced (32 * die + n) })
/-- HBM_ROW_REPAIR: the row's lines stand in a spare row; accesses to it wait for the copy, which is this one step. -/
def execHbmRowRepair (s : State) : Host.Outcome State Fault Refusal :=
  .next (if s.repaired.contains (s.input.id, s.input.addr) then s else { s with repaired := s.repaired ++ [(s.input.id, s.input.addr)] })
/-- HBM_CHANNEL_LOSS: frames reported lost, to be withdrawn once no page maps them. -/
def execHbmChannelLoss (s : State) : Host.Outcome State Fault Refusal :=
  .next (if s.lostFrames.contains (s.input.addr, s.input.count) then s
    else { s with lostFrames := s.lostFrames ++ [(s.input.addr, s.input.count)] })

/-! Clocks (25 R392-R394; 29 R433). -/

/-- 25 R392: D − 0.01 in units of 0.005, rounded up, and 26 R396: floor(D × 2^16). -/
def driftSteps (n0 n : Nat) : Int := -((2 * (n0 : Int) - 200 * ((n0 : Int) - n)) / n0)
def driftField (n0 n : Nat) : Nat :=
  if n ≤ n0 then (n0 - n) * 2 ^ 16 / n0 % 2 ^ 16 else (Config.driftGained (((n0 : Int) - n) * 2 ^ 16 / n0)).toNat
/-- AGEING_CHECK: the oscillators have counted `n` since the last comparison; FMAX only falls. -/
def State.ageingDue (s : State) (cluster : Nat) : Bool := (s.cluster cluster).next ≤ s.dt
def execAgeingCheck (cluster n : Nat) (s : State) : Host.Outcome State Fault Refusal :=
  .next (if !s.ageingDue cluster then s else
    let x := s.cluster cluster
    let n0 := Config.birthCount cluster
    let raw := if n0 == 0 then 0 else driftSteps n0 n
    let k := (clamp raw 0 12).toNat
    s.setCluster cluster { x with next := x.next + 2 ^ 20, drift := driftField n0 n, retreq := x.retreq || decide (12 < raw)
                                  pending := if max x.steps (x.pending.getD 0) < k then some k else x.pending })
/-- CLOCK_STEP: steps that wait take effect when every core of the cluster is at a clause boundary; issue stops for 1,200 ticks. -/
def State.clockDue (s : State) (cluster : Nat) : Bool :=
  let x := s.cluster cluster
  (x.pending.isSome || x.capPend.isSome) && !(s.issues.any fun i => coreOf i.tk / 8 == cluster)
def execClockStep (cluster : Nat) (s : State) : Host.Outcome State Fault Refusal :=
  .next (if !s.clockDue cluster then s else
    let x := s.cluster cluster
    let k := x.pending.getD x.steps
    let c := x.capPend.getD x.cap
    let s := s.setCluster cluster { x with steps := k, pending := none, cap := c, capPend := none, stop := s.dt + 1200 }
    s.emit 768 { typ := 13, b0 := max k c % 256, core := 768, f24 := x.drift, dt := s.dt })
/-- PWRCAP_CLOCK_CHANGE: firmware asks a cluster for `count` steps of 25 MHz below 1,200 MHz. -/
def execPwrcapClockChange (s : State) : Host.Outcome State Fault Refusal :=
  .next (s.setCluster s.input.cluster { s.cluster s.input.cluster with capPend := some s.input.count })
/-- THERMAL_TRIP: an inlet of `count` degrees, above 45: every cluster goes to 900 MHz, and an event is recorded. -/
def execThermalTrip (s : State) : Host.Outcome State Fault Refusal :=
  .next (if s.input.count ≤ 45 then s else
    let s := overAll (List.range 36) (fun s n => s.setCluster n { s.cluster n with capPend := some 12 }) s
    s.emit 768 { typ := 13, b0 := 12, core := 768, dt := s.dt })

end Sys2Proof.Machine
end

