-- ==== Sys2Proof/Machine/Dispatch.lean ====
section
/-! DEFINITION. One arm per constructor of Instr: the meaning of each. -/

namespace Sys2Proof.Machine

/-- The meaning of an instruction or step at a state. -/
def exec (i : Instr) (s : State) : Host.Outcome State Fault Refusal :=
  match i with
  | .clauseIssue tk g lead => Sys2Proof.Machine.execClauseIssue tk g lead s
  | .regangDeadline tk g t => Sys2Proof.Machine.execRegangDeadline tk g t s
  | .teamBarrierTimeout tk n => Sys2Proof.Machine.execTeamBarrierTimeout tk n s
  | .waitTimeout tk g t => Sys2Proof.Machine.execWaitTimeout tk g t s
  | .groupRetire tk g => Sys2Proof.Machine.execGroupRetire tk g s
  | .strikeQuarantineExpiry id => Sys2Proof.Machine.execStrikeQuarantineExpiry id s
  | .homeSliceWrite id => Sys2Proof.Machine.execHomeSliceWrite id s
  | .homeSliceAtomic id => Sys2Proof.Machine.execHomeSliceAtomic id s
  | .homeSliceRead id => Sys2Proof.Machine.execHomeSliceRead id s
  | .ownershipRevocation id core => Sys2Proof.Machine.execOwnershipRevocation id core s
  | .acknowledgement id => Sys2Proof.Machine.execAcknowledgement id s
  | .fillArrival id => Sys2Proof.Machine.execFillArrival id s
  | .leaseExpiry core line => Sys2Proof.Machine.execLeaseExpiry core line s
  | .slotCompletion op => Sys2Proof.Machine.execSlotCompletion op s
  | .vfenceRelease tk g => Sys2Proof.Machine.execVfenceRelease tk g s
  | .lineEviction line => Sys2Proof.Machine.execLineEviction line s
  | .leasectlWrite => Sys2Proof.Machine.execLeasectlWrite s
  | .qtailDoorbell => Sys2Proof.Machine.execQtailDoorbell s
  | .qbaseWrite => Sys2Proof.Machine.execQbaseWrite s
  | .cardEnqueue tenant q ring => Sys2Proof.Machine.execCardEnqueue tenant q ring s
  | .graphEnqueue tenant q ring => Sys2Proof.Machine.execGraphEnqueue tenant q ring s
  | .cardStart id => Sys2Proof.Machine.execCardStart id s
  | .cardComplete id => Sys2Proof.Machine.execCardComplete id s
  | .bindRecordWrite => Sys2Proof.Machine.execBindRecordWrite s
  | .teamStart tk save => Sys2Proof.Machine.execTeamStart tk save s
  | .preemptCommand => Sys2Proof.Machine.execPreemptCommand s
  | .killCommand => Sys2Proof.Machine.execKillCommand s
  | .drainComplete tk => Sys2Proof.Machine.execDrainComplete tk s
  | .drainTimeout tk => Sys2Proof.Machine.execDrainTimeout tk s
  | .saveRecordWritten tk => Sys2Proof.Machine.execSaveRecordWritten tk s
  | .lateAccessLost save id => Sys2Proof.Machine.execLateAccessLost save id s
  | .copyDescriptorRead cid g => Sys2Proof.Machine.execCopyDescriptorRead cid g s
  | .copySliceComplete cid g => Sys2Proof.Machine.execCopySliceComplete cid g s
  | .engineQueuePush tk q => Sys2Proof.Machine.execEngineQueuePush tk q s
  | .collectiveContribution => Sys2Proof.Machine.execCollectiveContribution s
  | .collectiveEntryRun inst e => Sys2Proof.Machine.execCollectiveEntryRun inst e s
  | .collectiveTimeout inst e => Sys2Proof.Machine.execCollectiveTimeout inst e s
  | .collectiveAbort => Sys2Proof.Machine.execCollectiveAbort s
  | .counterQuery => Sys2Proof.Machine.execCounterQuery s
  | .counterQueryTimeout rearm peer => Sys2Proof.Machine.execCounterQueryTimeout rearm peer s
  | .mmaStepStart tk g seq => Sys2Proof.Machine.execMmaStepStart tk g seq s
  | .commitMerge id => Sys2Proof.Machine.execCommitMerge id s
  | .closeArrival id => Sys2Proof.Machine.execCloseArrival id s
  | .tsInjection => Sys2Proof.Machine.execTsInjection s
  | .invalidate => Sys2Proof.Machine.execInvalidate s
  | .moveInvalidate => Sys2Proof.Machine.execMoveInvalidate s
  | .invalidationDone ctx => Sys2Proof.Machine.execInvalidationDone ctx s
  | .resolveReplay => Sys2Proof.Machine.execResolveReplay s
  | .resolveFail => Sys2Proof.Machine.execResolveFail s
  | .resolveKill => Sys2Proof.Machine.execResolveKill s
  | .fqtailWrite => Sys2Proof.Machine.execFqtailWrite s
  | .strikeReport => Sys2Proof.Machine.execStrikeReport s
  | .engineStrikeReport => Sys2Proof.Machine.execEngineStrikeReport s
  | .laneFailCommand => Sys2Proof.Machine.execLaneFailCommand s
  | .laneTakeover core slice => Sys2Proof.Machine.execLaneTakeover core slice s
  | .scrubPass => Sys2Proof.Machine.execScrubPass s
  | .flitRetry => Sys2Proof.Machine.execFlitRetry s
  | .ageingCheck cluster n => Sys2Proof.Machine.execAgeingCheck cluster n s
  | .clockStep cluster => Sys2Proof.Machine.execClockStep cluster s
  | .agectlWrite => Sys2Proof.Machine.execAgectlWrite s
  | .sliceReplacement => Sys2Proof.Machine.execSliceReplacement s
  | .hbmRowRepair => Sys2Proof.Machine.execHbmRowRepair s
  | .linkLaneSwap => Sys2Proof.Machine.execLinkLaneSwap s
  | .linkFailover => Sys2Proof.Machine.execLinkFailover s
  | .thermalTrip => Sys2Proof.Machine.execThermalTrip s
  | .powerOn => Sys2Proof.Machine.execPowerOn s
  | .deviceReset => Sys2Proof.Machine.execDeviceReset s
  | .selfTestComplete => Sys2Proof.Machine.execSelfTestComplete s
  | .firmwareBoot => Sys2Proof.Machine.execFirmwareBoot s
  | .attestationRequest => Sys2Proof.Machine.execAttestationRequest s
  | .traceRecordStore source => Sys2Proof.Machine.execTraceRecordStore source s
  | .snapshotRequest => Sys2Proof.Machine.execSnapshotRequest s
  | .snapshotTake => Sys2Proof.Machine.execSnapshotTake s
  | .snapshotEnd => Sys2Proof.Machine.execSnapshotEnd s
  | .mboxPop => Sys2Proof.Machine.execMboxPop s
  | .debugHalt => Sys2Proof.Machine.execDebugHalt s
  | .debugResume => Sys2Proof.Machine.execDebugResume s
  | .debugStep => Sys2Proof.Machine.execDebugStep s
  | .irqmaskWrite => Sys2Proof.Machine.execIrqmaskWrite s
  | .hostAccess => Sys2Proof.Machine.execHostAccess s
  | .remoteAccess => Sys2Proof.Machine.execRemoteAccess s
  | .remoteTimeout id => Sys2Proof.Machine.execRemoteTimeout id s
  | .dirtyBitmapFetchClear => Sys2Proof.Machine.execDirtyBitmapFetchClear s
  | .migrationStart => Sys2Proof.Machine.execMigrationStart s
  | .migrationRound => Sys2Proof.Machine.execMigrationRound s
  | .migrationStop => Sys2Proof.Machine.execMigrationStop s
  | .migrationTransfer => Sys2Proof.Machine.execMigrationTransfer s
  | .migrationKeyLoad => Sys2Proof.Machine.execMigrationKeyLoad s
  | .registerWrite => Sys2Proof.Machine.execRegisterWrite s
  | .iadd k f => Sys2Proof.Machine.execIadd k f s
  | .isub k f => Sys2Proof.Machine.execIsub k f s
  | .imul k f => Sys2Proof.Machine.execImul k f s
  | .imulhi k f => Sys2Proof.Machine.execImulhi k f s
  | .imad k f => Sys2Proof.Machine.execImad k f s
  | .idivs k f => Sys2Proof.Machine.execIdivs k f s
  | .imin k f => Sys2Proof.Machine.execImin k f s
  | .imax k f => Sys2Proof.Machine.execImax k f s
  | .iabs k f => Sys2Proof.Machine.execIabs k f s
  | .ineg k f => Sys2Proof.Machine.execIneg k f s
  | .shl k f => Sys2Proof.Machine.execShl k f s
  | .shr k f => Sys2Proof.Machine.execShr k f s
  | .sar k f => Sys2Proof.Machine.execSar k f s
  | .rotl k f => Sys2Proof.Machine.execRotl k f s
  | .rotr k f => Sys2Proof.Machine.execRotr k f s
  | .dsh k f => Sys2Proof.Machine.execDsh k f s
  | .popc k f => Sys2Proof.Machine.execPopc k f s
  | .clz k f => Sys2Proof.Machine.execClz k f s
  | .ctz k f => Sys2Proof.Machine.execCtz k f s
  | .brev k f => Sys2Proof.Machine.execBrev k f s
  | .bfx k f => Sys2Proof.Machine.execBfx k f s
  | .bfi k f => Sys2Proof.Machine.execBfi k f s
  | .clmul k f => Sys2Proof.Machine.execClmul k f s
  | .clmulh k f => Sys2Proof.Machine.execClmulh k f s
  | .and k f => Sys2Proof.Machine.execAnd k f s
  | .or k f => Sys2Proof.Machine.execOr k f s
  | .xor k f => Sys2Proof.Machine.execXor k f s
  | .not k f => Sys2Proof.Machine.execNot k f s
  | .lgc3 k f => Sys2Proof.Machine.execLgc3 k f s
  | .mov k f => Sys2Proof.Machine.execMov k f s
  | .sel k f => Sys2Proof.Machine.execSel k f s
  | .icmp k f => Sys2Proof.Machine.execIcmp k f s
  | .fadd k f => Sys2Proof.Machine.execFadd k f s
  | .fsub k f => Sys2Proof.Machine.execFsub k f s
  | .fmul k f => Sys2Proof.Machine.execFmul k f s
  | .fma k f => Sys2Proof.Machine.execFma k f s
  | .fmin k f => Sys2Proof.Machine.execFmin k f s
  | .fmax k f => Sys2Proof.Machine.execFmax k f s
  | .fabs k f => Sys2Proof.Machine.execFabs k f s
  | .fneg k f => Sys2Proof.Machine.execFneg k f s
  | .fcopysign k f => Sys2Proof.Machine.execFcopysign k f s
  | .frcp k f => Sys2Proof.Machine.execFrcp k f s
  | .frsq k f => Sys2Proof.Machine.execFrsq k f s
  | .fsqrt k f => Sys2Proof.Machine.execFsqrt k f s
  | .fexp2 k f => Sys2Proof.Machine.execFexp2 k f s
  | .flog2 k f => Sys2Proof.Machine.execFlog2 k f s
  | .fround k f => Sys2Proof.Machine.execFround k f s
  | .fclass k f => Sys2Proof.Machine.execFclass k f s
  | .fcmp k f => Sys2Proof.Machine.execFcmp k f s
  | .cvt k f => Sys2Proof.Machine.execCvt k f s
  | .cvtpk k f => Sys2Proof.Machine.execCvtpk k f s
  | .cvtsp k f => Sys2Proof.Machine.execCvtsp k f s
  | .plop k f => Sys2Proof.Machine.execPlop k f s
  | .ppack k f => Sys2Proof.Machine.execPpack k f s
  | .punpk k f => Sys2Proof.Machine.execPunpk k f s
  | .xfrom f => Sys2Proof.Machine.execXfrom f s
  | .xlow f => Sys2Proof.Machine.execXlow f s
  | .xhigh f => Sys2Proof.Machine.execXhigh f s
  | .xpair f => Sys2Proof.Machine.execXpair f s
  | .vany f => Sys2Proof.Machine.execVany f s
  | .vall f => Sys2Proof.Machine.execVall f s
  | .vballot f => Sys2Proof.Machine.execVballot f s
  | .scanadd f => Sys2Proof.Machine.execScanadd f s
  | .scanxor f => Sys2Proof.Machine.execScanxor f s
  | .scanmax f => Sys2Proof.Machine.execScanmax f s
  | .scanmin f => Sys2Proof.Machine.execScanmin f s
  | .redadd f => Sys2Proof.Machine.execRedadd f s
  | .redmax f => Sys2Proof.Machine.execRedmax f s
  | .redmin f => Sys2Proof.Machine.execRedmin f s
  | .redxor f => Sys2Proof.Machine.execRedxor f s
  | .srseed f => Sys2Proof.Machine.execSrseed f s
  | .ldG f => Sys2Proof.Machine.execLdG f s
  | .ldSh f => Sys2Proof.Machine.execLdSh f s
  | .ldSp f => Sys2Proof.Machine.execLdSp f s
  | .stG f => Sys2Proof.Machine.execStG f s
  | .stSh f => Sys2Proof.Machine.execStSh f s
  | .stSp f => Sys2Proof.Machine.execStSp f s
  | .atomGAdd f => Sys2Proof.Machine.execAtomGAdd f s
  | .atomGMin f => Sys2Proof.Machine.execAtomGMin f s
  | .atomGMax f => Sys2Proof.Machine.execAtomGMax f s
  | .atomGAnd f => Sys2Proof.Machine.execAtomGAnd f s
  | .atomGOr f => Sys2Proof.Machine.execAtomGOr f s
  | .atomGXor f => Sys2Proof.Machine.execAtomGXor f s
  | .atomGXchg f => Sys2Proof.Machine.execAtomGXchg f s
  | .atomGCas f => Sys2Proof.Machine.execAtomGCas f s
  | .atomGFadd f => Sys2Proof.Machine.execAtomGFadd f s
  | .atomGFmin f => Sys2Proof.Machine.execAtomGFmin f s
  | .atomGFmax f => Sys2Proof.Machine.execAtomGFmax f s
  | .atomShAdd f => Sys2Proof.Machine.execAtomShAdd f s
  | .atomShMin f => Sys2Proof.Machine.execAtomShMin f s
  | .atomShMax f => Sys2Proof.Machine.execAtomShMax f s
  | .atomShAnd f => Sys2Proof.Machine.execAtomShAnd f s
  | .atomShOr f => Sys2Proof.Machine.execAtomShOr f s
  | .atomShXor f => Sys2Proof.Machine.execAtomShXor f s
  | .atomShXchg f => Sys2Proof.Machine.execAtomShXchg f s
  | .atomShCas f => Sys2Proof.Machine.execAtomShCas f s
  | .atomShFadd f => Sys2Proof.Machine.execAtomShFadd f s
  | .atomShFmin f => Sys2Proof.Machine.execAtomShFmin f s
  | .atomShFmax f => Sys2Proof.Machine.execAtomShFmax f s
  | .atomSpAdd f => Sys2Proof.Machine.execAtomSpAdd f s
  | .atomSpMin f => Sys2Proof.Machine.execAtomSpMin f s
  | .atomSpMax f => Sys2Proof.Machine.execAtomSpMax f s
  | .atomSpAnd f => Sys2Proof.Machine.execAtomSpAnd f s
  | .atomSpOr f => Sys2Proof.Machine.execAtomSpOr f s
  | .atomSpXor f => Sys2Proof.Machine.execAtomSpXor f s
  | .atomSpXchg f => Sys2Proof.Machine.execAtomSpXchg f s
  | .atomSpCas f => Sys2Proof.Machine.execAtomSpCas f s
  | .atomSpFadd f => Sys2Proof.Machine.execAtomSpFadd f s
  | .atomSpFmin f => Sys2Proof.Machine.execAtomSpFmin f s
  | .atomSpFmax f => Sys2Proof.Machine.execAtomSpFmax f s
  | .fence f => Sys2Proof.Machine.execFence f s
  | .vfence f => Sys2Proof.Machine.execVfence f s
  | .barSet f => Sys2Proof.Machine.execBarSet f s
  | .barArr f => Sys2Proof.Machine.execBarArr f s
  | .barSync f => Sys2Proof.Machine.execBarSync f s
  | .tbExpect f => Sys2Proof.Machine.execTbExpect f s
  | .tbArrive f => Sys2Proof.Machine.execTbArrive f s
  | .tbWait f => Sys2Proof.Machine.execTbWait f s
  | .ccWait f => Sys2Proof.Machine.execCcWait f s
  | .qpush f => Sys2Proof.Machine.execQpush f s
  | .bra f => Sys2Proof.Machine.execBra f s
  | .braLead f => Sys2Proof.Machine.execBraLead f s
  | .call f => Sys2Proof.Machine.execCall f s
  | .callr f => Sys2Proof.Machine.execCallr f s
  | .ret f => Sys2Proof.Machine.execRet f s
  | .brar f => Sys2Proof.Machine.execBrar f s
  | .exit f => Sys2Proof.Machine.execExit f s
  | .trap f => Sys2Proof.Machine.execTrap f s
  | .tret f => Sys2Proof.Machine.execTret f s
  | .regang f => Sys2Proof.Machine.execRegang f s
  | .tsRsv f => Sys2Proof.Machine.execTsRsv f s
  | .tsRel f => Sys2Proof.Machine.execTsRel f s
  | .tsRec f => Sys2Proof.Machine.execTsRec f s
  | .tsWr f => Sys2Proof.Machine.execTsWr f s
  | .tsRd f => Sys2Proof.Machine.execTsRd f s
  | .tsSync f => Sys2Proof.Machine.execTsSync f s
  | .tsCk f => Sys2Proof.Machine.execTsCk f s
  | .tsCks f => Sys2Proof.Machine.execTsCks f s
  | .gangSet f => Sys2Proof.Machine.execGangSet f s
  | .mma f => Sys2Proof.Machine.execMma f s
  | .mmaZ f => Sys2Proof.Machine.execMmaZ f s
  | .commit f => Sys2Proof.Machine.execCommit f s
  | .commitOrd f => Sys2Proof.Machine.execCommitOrd f s
  | .accClose f => Sys2Proof.Machine.execAccClose f s
  | .fragLd f => Sys2Proof.Machine.execFragLd f s
  | .fragCks f => Sys2Proof.Machine.execFragCks f s
  | .lbind f => Sys2Proof.Machine.execLbind f s
  | .lunbind f => Sys2Proof.Machine.execLunbind f s
  | .ladd f => Sys2Proof.Machine.execLadd f s
  | .laddc f => Sys2Proof.Machine.execLaddc f s
  | .lsub f => Sys2Proof.Machine.execLsub f s
  | .lsubb f => Sys2Proof.Machine.execLsubb f s
  | .lneg f => Sys2Proof.Machine.execLneg f s
  | .lcmp f => Sys2Proof.Machine.execLcmp f s
  | .lshl f => Sys2Proof.Machine.execLshl f s
  | .lshr f => Sys2Proof.Machine.execLshr f s
  | .lshlw f => Sys2Proof.Machine.execLshlw f s
  | .lshrw f => Sys2Proof.Machine.execLshrw f s
  | .lmac f => Sys2Proof.Machine.execLmac f s
  | .lnorm f => Sys2Proof.Machine.execLnorm f s
  | .lld f => Sys2Proof.Machine.execLld f s
  | .lst f => Sys2Proof.Machine.execLst f s
  | .lovf f => Sys2Proof.Machine.execLovf f s
  | .copy f => Sys2Proof.Machine.execCopy f s
  | .copyts f => Sys2Proof.Machine.execCopyts f s
  | .collStart f => Sys2Proof.Machine.execCollStart f s
  | .collRearm f => Sys2Proof.Machine.execCollRearm f s
  | .collReady f => Sys2Proof.Machine.execCollReady f s
  | .cardEnq f => Sys2Proof.Machine.execCardEnq f s
  | .graphLaunch f => Sys2Proof.Machine.execGraphLaunch f s
  | .tbInit f => Sys2Proof.Machine.execTbInit f s
  | .cntInit f => Sys2Proof.Machine.execCntInit f s
  | .wgtSet f => Sys2Proof.Machine.execWgtSet f s
  | .rdsr f => Sys2Proof.Machine.execRdsr f s
  | .wrsr f => Sys2Proof.Machine.execWrsr f s
  | .brk f => Sys2Proof.Machine.execBrk f s
  | .sstep f => Sys2Proof.Machine.execSstep f s
  | .wptArm f => Sys2Proof.Machine.execWptArm f s
  | .wptClr f => Sys2Proof.Machine.execWptClr f s
  | .pcmpSet f => Sys2Proof.Machine.execPcmpSet f s
  | .pcmpClr f => Sys2Proof.Machine.execPcmpClr f s
  | .prefetch f => Sys2Proof.Machine.execPrefetch f s
  | .cinv f => Sys2Proof.Machine.execCinv f s
  | .cwb f => Sys2Proof.Machine.execCwb f s
  | .smpl f => Sys2Proof.Machine.execSmpl f s
  | .mboxWr f => Sys2Proof.Machine.execMboxWr f s
  | .halt f => Sys2Proof.Machine.execHalt f s
  | .resume f => Sys2Proof.Machine.execResume f s
  | .revocationConfirmation id core => Sys2Proof.Machine.execRevocationConfirmation id core s
  | .counterQueryAnswer => Sys2Proof.Machine.execCounterQueryAnswer s
  | .snapshotForwardReceived => Sys2Proof.Machine.execSnapshotForwardReceived s
  | .pwrcapClockChange => Sys2Proof.Machine.execPwrcapClockChange s
  | .hbmChannelLoss => Sys2Proof.Machine.execHbmChannelLoss s

end Sys2Proof.Machine
end

