-- ==== Sys2Proof/Machine/Events.lean ====
section
/-! DEFINITION. What comes next (log 4): the steps of the hardware that are due, what follows every step, the next word of a clause,
and the choice among the moves of different agents. -/

namespace Sys2Proof.Machine

/-! The steps that are due. -/

/-- What candidates do at their clause boundaries in this tick (01 R28). -/
def State.issueDue (s : State) : List Instr :=
  s.teams.flatMap fun (tk, m) => m.groups.flatMap fun (g, x) =>
    ((x.cands.map (·.headD 0)).filter fun t => (s.clauseIssue tk g t).isSome).map fun t => Instr.clauseIssue tk g t
/-- 11 R208: slices of copies that end with an arrival at a transaction barrier, which no instruction has updated in this tick. -/
def State.arrivalsDue (s : State) : List Instr :=
  s.copies.flatMap fun (cid, c) => (c.slices.filter fun (_, x) => x.comp == 1 && s.sliceDue c x &&
    !(c.team.bind s.team).any fun m => tget? m.tbWords x.tb == some s.dt).map fun (g, _) => Instr.copySliceComplete cid g

/-- Steps of a thread, a group and a team. -/
def State.teamEvents (s : State) (tk : Nat) (m : Team) : List Instr :=
  (m.groups.flatMap fun (g, x) =>
    ((x.th.filter fun e => s.regangDue e.2).map fun e => Instr.regangDeadline tk g e.1) ++
    ((x.th.filter fun e => s.waitLate tk g e.1).map fun e => Instr.waitTimeout tk g e.1) ++
    (if s.groupRetireDue tk g then [Instr.groupRetire tk g] else []) ++
    (if s.vfenceDue tk g then [Instr.vfenceRelease tk g] else [])) ++
  ((m.bars.filter fun e => s.barLate tk e.1).map fun e => Instr.teamBarrierTimeout tk e.1) ++
  (([1, 3, 5].filter fun q => s.pushDue tk q).map fun q => Instr.engineQueuePush tk q)
/-- Steps of an access. -/
def State.accEvents (s : State) (id : Nat) (a : Access) : List Instr :=
  (if s.leaveDue id a then [Instr.strikeQuarantineExpiry id] else []) ++
  (if s.readDue id a then [Instr.homeSliceRead id] else []) ++
  (if s.writeDue id a then [Instr.homeSliceWrite id] else []) ++
  (if s.atomicDue id a then [Instr.homeSliceAtomic id] else []) ++
  (if s.mergeDue id a then [Instr.commitMerge id] else []) ++
  (if s.closeDue id a then [Instr.closeArrival id] else []) ++
  ((a.revs.filter fun r => s.revokeDue a r).map fun r => Instr.ownershipRevocation id r.core) ++
  ((a.revs.filter fun r => s.confirmDue a r).map fun r => Instr.revocationConfirmation id r.core) ++
  (if s.ackDue a then [Instr.acknowledgement id] else []) ++
  (if s.fillDue id a then [Instr.fillArrival id] else []) ++
  (if s.remoteLate a then [Instr.remoteTimeout id] else []) ++
  (match a.save with | some k => if s.lostDue k id then [Instr.lateAccessLost k id] else [] | none => [])
/-- Is a restore of a slot that waits for room to be tried (21 R341)? -/
def State.retryRestore (s : State) (tk : Nat) (x : Slot) : Option Nat :=
  match x.save with
  | none => none
  | some k => match tget? s.saves k with
    | none => none
    | some _ => if x.st == .armed && s.restoreDue tk k then some k else none
/-- Steps of a core and its slots. -/
def State.coreEvents (s : State) (c : Nat) (k : Core) : List Instr :=
  (k.slots.flatMap fun (n, x) =>
    let tk := 16 * c + n
    (if s.startDue tk then [Instr.teamStart tk none] else []) ++
    (match s.retryRestore tk x with | some k => [Instr.teamStart tk (some k)] | none => []) ++
    (if s.drained tk then [Instr.drainComplete tk] else []) ++
    (if s.drainLate tk then [Instr.drainTimeout tk] else []) ++
    (if s.savedDue tk then [Instr.saveRecordWritten tk] else [])) ++
  ((k.l1.filter fun e => e.2.le ≤ s.dt).map fun e => Instr.leaseExpiry c e.1) ++
  ((k.mboxOut.head?.toList.filter fun r => r.dt + Config.quarantine ≤ s.dt).map fun r => Instr.strikeQuarantineExpiry r.id) ++
  ((k.latch.filter fun d => s.startable d.tk d.g d.seq).map fun d => Instr.mmaStepStart d.tk d.g d.seq) ++
  ((k.slices.filter fun e => s.takeoverDue c e.1).map fun e => Instr.laneTakeover c e.1)
/-- Steps of the launcher's queues. -/
def State.queueEvents (s : State) : List Instr :=
  let rings := s.tenants.flatMap fun (t, x) => x.queues.map fun e => (t, e.1)
  let placed := s.enqs.map fun e => (e.tenant, e.q)
  (rings ++ placed).eraseDups.flatMap fun (t, q) => [true, false].flatMap fun r =>
    (if (s.takeEntry t q r false).isSome then [Instr.cardEnqueue t q r] else []) ++
    (if (s.takeEntry t q r true).isSome then [Instr.graphEnqueue t q r] else [])
/-- Every step of the hardware that is due. -/
def State.events (s : State) : List Instr :=
  let (draw, _) := s.draw
  (s.teams.flatMap fun (tk, m) => s.teamEvents tk m) ++
  (s.accs.flatMap fun (id, a) => s.accEvents id a) ++
  (s.cores.flatMap fun (c, k) => s.coreEvents c k) ++
  s.queueEvents ++
  ((s.ops.filter fun o => o.2.left == 0).map fun o => Instr.slotCompletion o.1) ++
  ((s.lines.filter fun e => e.2.present && e.2.acc.isNone).map fun e => Instr.lineEviction e.1) ++
  ((s.cards.filter fun e => s.cardEndDue e.1 e.2).map fun e => Instr.cardComplete e.1) ++
  ((s.cards.filter fun e => s.cardStartDue e.1).map fun e => Instr.cardStart e.1) ++
  (s.copies.flatMap fun (cid, c) => c.slices.flatMap fun (g, x) =>
    (if s.descDue c x then [Instr.copyDescriptorRead cid g] else []) ++ (if s.sliceDue c x && x.comp != 1 then [Instr.copySliceComplete cid g] else [])) ++
  (s.insts.flatMap fun (k, i) => i.entries.flatMap fun (e, _) =>
    (if s.runDue k e then [Instr.collectiveEntryRun k e] else []) ++ (if s.entryLate k e then [Instr.collectiveTimeout k e] else [])) ++
  (s.rearms.flatMap fun (id, r) => (r.wait.filter (s.queryLate id ·)).map fun p => Instr.counterQueryTimeout id p) ++
  ((s.ctxs.filter fun e => s.invDue e.1).map fun e => Instr.invalidationDone e.1) ++
  (((List.range 36).filter s.ageingDue).map fun n => Instr.ageingCheck n (Config.ringCount draw)) ++
  ((s.clusters.filter fun e => s.clockDue e.1).map fun e => Instr.clockStep e.1) ++
  ((s.sources.filter fun e => s.storeDue e.1).map fun e => Instr.traceRecordStore e.1) ++
  (if s.snapEndDue then [Instr.snapshotEnd] else [])

/-! What follows every step. -/

/-- Copy cards whose slices have all ended. -/
def State.copyCardEnds (s : State) : State :=
  let l := s.copies.filter fun (_, c) => c.card.isSome && c.slices.all (·.2.ended)
  overAll (tkeys l) (fun s c => s.copyCardEnd c) s
/-- Steps whose effect is no begin, change or end of a wait (25 R380; 29 R427). -/
def Instr.startsOver (i : Instr) : Bool := match i with | .strikeReport | .deviceReset | .powerOn => true | _ => false
/-- Commands that a replay takes again (25 R380). -/
def Instr.retaken (i : Instr) : Bool :=
  match i with
  | .debugHalt | .debugResume | .debugStep | .resolveReplay | .resolveFail | .resolveKill => true
  | _ => false
/-- 11 R208, 15 R262: a barrier that `tb.expect` or `tb.arrive` has updated; a tile store that a word has written. -/
def State.noteWord (s old : State) (i : Instr) : State :=
  match i, old.cur with
  | .tbExpect f, some j | .tbArrive f, some j => s.modTeam j.tk fun m => { m with tbWords := tset m.tbWords f.d.toNat s.dt }
  | .tsWr _, some j => s.modCore (coreOf j.tk) fun c => { c with tsWrote := some s.dt }
  | _, _ => s
/-- Scalar registers that a word writes in its own step; an access writes its own where it is delivered. -/
def scalarWrites (i : Instr) : List Nat :=
  if (fmOf i).isSome then [] else ((regCodes (writtenRegs i)).filter fun c => 64 ≤ c && c < 128).map (· - 64)
/-- 01 R31: scalar registers take writes in grant order, so that a word of a clause granted before the last writer's leaves a register as
it stands. -/
def State.grantOrder (s old : State) (i : Instr) : State :=
  match old.cur with
  | none => s
  | some j => if !(old.agenda.isEmpty && j.live.any (old.takes j i)) then s else
    overAll (scalarWrites i) (fun s n => s.modGroup j.tk j.g fun m =>
      if tget m.sLast n 0 ≤ j.id then { m with sLast := tset m.sLast n j.id }
      else { m with s := tset m.s n (((old.group j.tk j.g).getD {}).sreg n) }) s
/-- What a step brings about beyond itself: reads leave, copies go on, waits are tested, teams retire; and the waits' records. -/
def State.after (s old : State) (i : Option Instr) : State :=
  let s := match i with | some i => (s.noteWord old i).grantOrder old i | none => s
  let s := match i with
    | some .tsInjection => if old.noInjection then s else { s with recent := s.recent ++ [(s.dt, Instr.tsInjection, old.noteInjection s.input)] }
    | some j => if Instr.retaken j then { s with recent := s.recent ++ [(s.dt, j, s.input)] } else s
    | none => s
  let s := s.copyWork.copyCardEnds.collWork
  let s := (s.ccTestAll none).regangTestAll.slotPending.sendReads.markLatch.retestHalted
  let s := s.retireTeams.savesTold.stepDone.migrStops.fqRetry.retryOutside
  if i.any Instr.startsOver then s else s.noteWaits old

/-! The next word of a clause. -/

/-- The next word of the clause that issues: its instruction, and the state from which it is made. -/
def State.nextWord (s : State) : Option (Instr × State) :=
  match s.issues with
  | [] => none
  | i :: rest =>
    match decodeNext i.header.cls i.words with
    | none => none
    | some (x, ws) => some (x, { s with issues := { i with words := ws, widx := i.header.n.toNat + 1 - i.words.length } :: rest })
/-- After a word: the clause ends with its last word, or when no thread is left to take one. -/
def State.wordDone (s : State) : State :=
  let s := { s with turn := false }
  match s.cur with
  | some i =>
    let s := s.modGroup i.tk i.g fun m => { m with words := m.words + 1 }
    if i.words.isEmpty || i.live.isEmpty then s.finishClause else s
  | none => s

/-! The choice. -/

/-- What may come next: the next word of the n-th clause in progress, or a step of the hardware. -/
inductive Move where
  | word (n : Nat)
  | event (i : Instr)
deriving DecidableEq, Repr, Inhabited
def State.moves (s : State) : List Move :=
  ((List.range s.issues.length).filter fun n => match s.issues[n]? with | some i => s.wordReady i | none => false).map Move.word ++
  s.events.map Move.event
/-- What comes before any other move of the tick: grants (01 R28), arrivals of copies (11 R208), and records that have waited as long as
27 R397 lets them. -/
def State.urgent (s : State) : List Instr :=
  s.issueDue ++ s.arrivalsDue ++ (s.sources.filter fun e => s.storeLate e.1).map fun e => Instr.traceRecordStore e.1
/-- The first later tick at which a slot may be offered to a candidate that has none now: the next one after a grant, or the end of a
stop or of a step of an array; or by which a record is to reach the store (27 R397). -/
def State.nextSlot (s : State) : Option Nat :=
  let cores := s.cores.flatMap fun (_, c) => c.stop :: (c.slices.flatMap fun e => [e.2.stop, (e.2.granted.map (· + 1)).getD 0]) ++
    c.arrays.flatMap (·.2)
  let records := s.sources.filterMap fun (_, x) => x.buf.head?.map fun r => r.dt + 4096
  (((s.clusters.map fun e => e.2.stop) ++ cores ++ records).filter (s.dt < ·)).min?
/-- The scheduler: a snapshot that is due comes first (27 R405), then what comes before any other move; else ticks pass, not beyond the
next slot, and one of the moves is chosen. -/
def State.schedule (s : State) : State :=
  if s.snapDue then s.push .snapshotTake else
  let (n, s) := s.draw
  match s.urgent with
  | i :: l => s.push (((i :: l)[Config.pick n % (l.length + 1)]?).getD i)
  | [] =>
    let k := Config.elapsed n
    let s := (s.pass (match s.nextSlot with | some t => min k (t - s.dt) | none => k)).redoDue
    if s.snapDue || !s.urgent.isEmpty then s else
    let l := s.moves
    let (n, s) := s.draw
    match l[Config.pick n % l.length]? with
    | none => s
    | some (.word k) => { s with issues := s.issues.drop k ++ s.issues.take k, turn := true }
    | some (.event i) => s.push i

end Sys2Proof.Machine
end

