-- ==== Sys2Proof/Machine/Step.lean ====
section
/-! DEFINITION. One step of the device (log 4): the next step on the agenda, or the next word of the clause whose turn it is, or the
choice of what comes next. And a word placed as the next to issue. -/

namespace Sys2Proof.Machine

/-- What becomes of an answer that goes on. -/
def goOn (o : Host.Outcome State Fault Refusal) (f : State → State) : Host.Outcome State Fault Refusal :=
  match o with
  | .next s => .next (f s)
  | .fault r => .fault r
  | .refused r => .refused r

def step (s : State) : Host.Outcome State Fault Refusal :=
  match s.agenda with
  | (i, x) :: rest => goOn (exec i { s with agenda := rest, input := x }) fun t => t.after s (some i)
  | [] =>
    if s.turn && !s.issues.isEmpty then
      match s.nextWord with
      | some (i, t) => goOn (exec i t) fun u => u.wordDone.after s (some i)
      | none => .fault .undecodedWord
    else .next s.schedule

/-- A team for a word that is placed: one group of 32 Ready threads. -/
def placedTeam : Team := { groups := [(0, { th := (List.range 32).map fun t => (t, {}) })] }

/-- The state whose next step issues a word placed as the one word of a clause, for the live threads of group 0 of slot 0 of core 0,
which is bound if it is free (log 17). -/
def State.withFetchWord (s : State) (nbits w : Nat) : State :=
  let ws := tableWords nbits w
  let ws := if hasX (ws.headD 0) then ws else ws.take 1
  let cls := match tableDecode (tableWords nbits w) with | some (c, _) => c | none => .U
  let teams := if (tget? s.teams 0).isSome then s.teams else tset s.teams 0 placedTeam
  let live := (((tget teams 0 {}).group 0).th.filter fun e => e.2.isReady).map (·.1)
  let h : Header := { n := BitVec.ofNat 4 ws.length, cls := cls, wait := 0, pn := false, p := 7, last := false, yield := false }
  { s with teams := teams, agenda := [], turn := true
           issues := { id := 8 * s.dt + 1, tk := 0, g := 0, pc := 0, header := h, cand := live, live := live, words := ws } :: s.issues }

end Sys2Proof.Machine
end

