-- ==== Sys2Proof/Safety.lean ====
section
/-! DEFINITION. The terms in which claims speak: what a safe run is, a clause that a group issues, the threads that take a word, and
what a word leaves as it was. -/

namespace Sys2Proof.Safety

open Machine

/-- A state from which the next step goes on. -/
def StepsOn (s : State) : Prop := ∃ t, step s = .next t
/-- A run of `n` steps from a state that never stops. -/
def SafeFor (n : Nat) (s : State) : Prop := ∃ t, core.run n s = .next t

/-! A clause that a group issues (05 R80; 09 R149). -/

/-- Clause `i` issues: its team `m` and group `g` are there, and so are its threads, in rising order. -/
structure Issuing (s : State) (i : Issue) (m : Team) (g : Group) : Prop where
  cur : s.cur = some i
  team : s.team i.tk = some m
  group : tget? m.groups i.g = some g
  there : ∀ t ∈ i.live, (tget? g.th t).isSome = true
  rising : i.live.Pairwise (· < ·)

/-- The threads that take a word (09 R149): the clause's live threads whose instruction predicate is true. -/
def takers (i : Issue) (g : Group) (e : Option Ext) : List Nat :=
  match e with
  | none => i.live
  | some x => i.live.filter fun t => ((g.thread t).predN x.p.toNat x.pn).val
/-- No live thread of the clause has a poisoned instruction predicate (else it is killed, 09 R182). -/
def CleanPred (i : Issue) (g : Group) (e : Option Ext) : Prop :=
  match e with
  | none => True
  | some x => ∀ t ∈ i.live, ((g.thread t).predN x.p.toNat x.pn).poison = false
/-- No source is a queue register, whose read pops an entry (05 R94). -/
def NoQueue (codes : List (Nat × (Nat → Word))) : Prop := ∀ c ∈ codes, ¬(132 ≤ c.1 ∧ c.1 < 140)

/-- Nothing but one group, and the clauses in progress, differs: every other group, team, byte of memory and register of the device
is as it was. -/
structure OnlyTeam (s t : State) (i : Issue) (m : Team) : Prop where
  rest : { t with teams := s.teams, issues := s.issues } = s
  mem : ∀ a, mget t.mem a = mget s.mem a
  teams : ∀ k, k ≠ i.tk → t.team k = s.team k
  team : ∃ m', t.team i.tk = some m' ∧ { m' with groups := m.groups } = m ∧ ∀ h, h ≠ i.g → tget? m'.groups h = tget? m.groups h
/-- And of the clauses in progress nothing but the bypass latches of the one that issues. -/
structure OnlyGroup (s t : State) (i : Issue) (m : Team) : Prop extends OnlyTeam s t i m where
  clause : ∃ i', t.issues = i' :: s.issues.tail ∧ { i' with lat := i.lat, slat := i.slat } = i

/-! Words of classes U and L that write registers (09 R149, R150). -/

/-- What an operation gives for thread `t` under its sources: poisoned where a source is (09 R150). -/
def resOf (s : State) (i : Issue) (g : Group) (codes : List (Nat × (Nat → Word))) (op : Thread → List Word → Res) (t : Nat) : Res :=
  (op (g.thread t) (codes.map fun c => (s.src i c.2 t c.1).val)).guard (codes.any fun c => (s.src i c.2 t c.1).poison)
/-- The thread whose sources a thread's result comes from: in class U the lowest that takes the word (09 R149). -/
def sourceOf (k : UL) (ps : List Nat) (t : Nat) : Nat := match k with | .U => ps.headD 0 | .L => t
/-- The registers of a destination of `n` registers stand in their file: v registers in class L, s registers else (05 R90). -/
def Fits (k : UL) (f : FR) (g : Group) (n : Nat) : Prop :=
  (f.d.toNat < 64 ∧ k = .L ∧ f.d.toNat + n ≤ 64 ∧ f.d.toNat + n ≤ g.ba) ∨ (64 ≤ f.d.toNat ∧ f.d.toNat + n ≤ 128)
/-- Is register `c` of thread `l` one that a word with destination `f.d` of `n` registers writes (05 R83, R90)? -/
def Writes (f : FR) (ps : List Nat) (n l c : Nat) : Prop :=
  f.w = false ∧ f.d.toNat ≤ c ∧ c < f.d.toNat + n ∧ ps ≠ [] ∧ (f.d.toNat < 64 → l ∈ ps)
/-- A register of a thread that can be named: a v register within the block allocation, or an s register. -/
def Named (g : Group) (c : Nat) : Prop := (c < 64 ∧ c < g.ba) ∨ (64 ≤ c ∧ c < 128)

/-- What a U or L word with a register result does: it answers a next state, in which each register that it writes holds the result,
the flags and the rounding state of the threads that take it are as the result says, and everything else is as it was. -/
def AluEffect (x : Instr) (k : UL) (f : FR) (codes : List (Nat × (Nat → Word))) (n : Nat) (op : Thread → List Word → Res) : Prop :=
  ∀ s i m g, Issuing s i m g → CleanPred i g f.ext → NoQueue codes → Fits k f g n →
    ∃ t, exec x s = .next t ∧ OnlyGroup s t i m ∧
      (∀ l c, Writes f (takers i g f.ext) n l c →
        (resOf s i g codes op (if f.d.toNat < 64 then l else (takers i g f.ext).headD 0)).regs[c - f.d.toNat]? =
          some (t.getR i.tk i.g l c)) ∧
      (∀ l c, Named g c → ¬ Writes f (takers i g f.ext) n l c → t.getR i.tk i.g l c = s.getR i.tk i.g l c) ∧
      (∃ g', t.group i.tk i.g = some g' ∧ { g' with th := g.th, s := g.s, fs := g.fs } = g ∧
        ∀ l, ∃ v, tget? g'.th l = (tget? g.th l).map fun th =>
          let r := resOf s i g codes op (sourceOf k (takers i g f.ext) l)
          { th with v := v
                    fstat := if l ∈ takers i g f.ext then th.fstat ||| wn r.flags else th.fstat
                    srs := if l ∈ takers i g f.ext ∧ sourceOf k (takers i g f.ext) l = l then r.srs.getD th.srs else th.srs })

/-- What a word does that writes registers out of what several threads hold: `v` gives the registers of each thread that takes it. -/
def RegEffect (x : Instr) (f : FR) (n : Nat) (v : State → Issue → Group → List Nat → Nat → List PWord) : Prop :=
  ∀ s i m g, Issuing s i m g → CleanPred i g f.ext → Fits .L f g n →
    ∃ t, exec x s = .next t ∧ OnlyGroup s t i m ∧
      (∀ l c, Writes f (takers i g f.ext) n l c →
        (v s i g (takers i g f.ext) (if f.d.toNat < 64 then l else (takers i g f.ext).headD 0))[c - f.d.toNat]? =
          some (t.getR i.tk i.g l c)) ∧
      (∀ l c, Named g c → ¬ Writes f (takers i g f.ext) n l c → t.getR i.tk i.g l c = s.getR i.tk i.g l c) ∧
      (∃ g', t.group i.tk i.g = some g' ∧ { g' with th := g.th, s := g.s, fs := g.fs } = g ∧
        ∀ l, ∃ v, tget? g'.th l = (tget? g.th l).map fun th => { th with v := v })

/-- What a word does that changes the threads that take it, other than their registers, and nothing else. -/
def ThreadEffect (x : Instr) (e : Option Ext) (codes : List (Nat × (Nat → Word)))
    (new : State → Issue → Group → List Nat → Nat → Thread → Thread) : Prop :=
  ∀ s i m g, Issuing s i m g → CleanPred i g e → NoQueue codes →
    ∃ t, exec x s = .next t ∧ OnlyGroup s t i m ∧
      ∃ g', t.group i.tk i.g = some g' ∧ { g' with th := g.th } = g ∧
        ∀ l, tget? g'.th l = (tget? g.th l).map fun th => if l ∈ takers i g e then new s i g (takers i g e) l th else th

/-- What a word does that notes something in the clause that issues, for after its last word, and changes nothing else. -/
def ClauseEffect (x : Instr) (e : Option Ext) (new : State → Issue → Group → List Nat → Issue) : Prop :=
  ∀ s i m g, Issuing s i m g → CleanPred i g e →
    ∃ t, exec x s = .next t ∧ { t with issues := s.issues } = s ∧
      ∃ i', t.issues = i' :: s.issues.tail ∧
        { i' with lat := i.lat, slat := i.slat } = { new s i g (takers i g e) with lat := i.lat, slat := i.slat }

/-- What a transfer of control does (13 R220): each thread of `ps` is changed by `new`, where that is `some`, and then stands at a new
address; everything else is as it was. -/
def TransferEffect (x : Instr) (ps : List Nat) (s : State) (i : Issue) (m : Team) (g : Group) (new : Nat → Thread → Option Thread) : Prop :=
  ∃ t, exec x s = .next t ∧ OnlyTeam s t i m ∧
    (∃ g', t.group i.tk i.g = some g' ∧ { g' with th := g.th } = g ∧
      ∀ l, tget? g'.th l = (tget? g.th l).map fun th => if l ∈ ps then (new l th).getD th else th) ∧
    ∃ i', t.cur = some i' ∧ i'.live = i.live ∧ i'.words = i.words ∧
      ∀ l, l ∈ i'.moved ↔ l ∈ i.moved ∨ (l ∈ ps ∧ (new l (g.thread l)).isSome = true)

end Sys2Proof.Safety
end

