-- ==== Sys2Proof/Certificates/Slice0/Obligations.lean ====
section
/-! DEFINITION. The statements: what each instruction and each step of the hardware does, from the spec's rules. -/

open Sys2Proof Sys2Proof.Machine Sys2Proof.Safety

namespace Sys2Proof.Claim

/-- The bits of a word, the lowest first. -/
def bitsWord (b : Nat → Bool) : Word := BitVec.ofNat 32 (((List.range 32).map fun k => (b k).toNat * 2 ^ k).foldl (· + ·) 0)
/-- The operands of a word: source A, source B, third source. -/
def a1 (l : List Word) : Word := l.getD 0 0
def a2 (l : List Word) : Word := l.getD 1 0
def a3 (l : List Word) : Word := l.getD 2 0
/-- A result of one register. -/
def one (v : List Word → Word) : Thread → List Word → Res := fun _ l => { val := v l }
/-- Sources of integer words (05 R92). -/
def srcA (f : FR) : List (Nat × (Nat → Word)) := [(f.a.toNat, kInt)]
def srcAB (f : FR) : List (Nat × (Nat → Word)) := [(f.a.toNat, kInt), (f.b.toNat, kInt)]
def srcABC (f : FR) : List (Nat × (Nat → Word)) := [(f.a.toNat, kInt), (f.b.toNat, kInt), (thirdOf f.ext, kInt)]
/-- Sources of floating words in the word's format. -/
def fsrcA (f : FR) : List (Nat × (Nat → Word)) := [(f.a.toNat, kFloat (fmtOf f))]
def fsrcAB (f : FR) : List (Nat × (Nat → Word)) := fsrcA f ++ [(f.b.toNat, kFloat (fmtOf f))]
def fsrcABC (f : FR) : List (Nat × (Nat → Word)) := fsrcAB f ++ [(thirdOf f.ext, kFloat (fmtOf f))]
/-- 09 R155: an exact integer, or the nearest end of the type's range under SAT; `wrapped` is the result without SAT. -/
def satOr (f : FR) (exact : Int) (wrapped : Word) : Word :=
  if isSat f then w32 (clamp exact (if isU f then 0 else -2 ^ 31) (if isU f then 2 ^ 32 - 1 else 2 ^ 31 - 1)) else wrapped
/-- 09 R152. -/
def iv (f : FR) (x : Word) : Int := if isU f then (x.toNat : Int) else x.toInt
/-- 09 R158: the place and the length of a field. -/
def fieldPos (b : Word) : Nat := b.toNat % 32
def fieldLen (b : Word) : Nat := min (b.toNat / 256 % 64) (32 - fieldPos b)
/-- 09 R159: bit `k` of the polynomial product. -/
def polyBit (a b : Word) (k : Nat) : Bool :=
  (List.range (k + 1)).foldl (fun p i => p != (a.getLsbD i && b.getLsbD (k - i))) false
/-- The value that a register holds in a floating format. -/
def fval (f : FR) (x : Word) : Machine.Num := val (fmtOf f) (x.toNat % 2 ^ (fmtOf f).width)
/-- 09 R161: NV where the result is a NaN and no operand is. -/
def nv (x : Machine.Num) (l : List Machine.Num) : Nat := if x.isNan ∧ ∀ y ∈ l, y.isNan = false then NV else 0
/-- 03 R62, R64: a value rounded into a format, with its flags and the rounding state that it leaves. -/
def rounded (f : FR) (g : Fmt) (x : Machine.Num) (flags : Nat) (th : Thread) : Res :=
  let r := rndS x g (mRound (immOf f.ext)) (mSat (immOf f.ext)) th.srs
  { val := wn r.1.code, hi := if g = .f64 then some (wn (r.1.code / 2 ^ 32)) else none, flags := flags ||| r.1.flags, srs := some r.2 }
/-- 09 R177: the threads of a segment that take the word. -/
def seg (w : Nat) (ps : List Nat) (t : Nat) : List Nat := ps.filter fun j => j / w = t / w
/-- 09 R177: the predicate that PSRC names, of a thread. -/
def psrc (f : FR) (g : Group) (t : Nat) : PBool := (g.thread t).predN (immOf f.ext % 8) ((immOf f.ext).testBit 3)

end Sys2Proof.Claim

open Sys2Proof.Claim

/-! Words of classes U and L. -/

/-- Add, multiply, minimum, maximum, absolute value and negation (09 R155), with the sources they read, the registers they write and
their frame. -/
def Obligations.IntegerArithmetic : Prop :=
  ∀ (k : UL) (f : FR),
    AluEffect (.iadd k f) k f (srcAB f) 1 (one fun l => satOr f (iv f (a1 l) + iv f (a2 l)) (a1 l + a2 l)) ∧
    AluEffect (.isub k f) k f (srcAB f) 1 (one fun l => satOr f (iv f (a1 l) - iv f (a2 l)) (a1 l - a2 l)) ∧
    AluEffect (.imul k f) k f (srcAB f) 1 (one fun l => satOr f (iv f (a1 l) * iv f (a2 l)) (a1 l * a2 l)) ∧
    AluEffect (.imulhi k f) k f (srcAB f) 1 (one fun l => w32 (iv f (a1 l) * iv f (a2 l) / 2 ^ 32)) ∧
    AluEffect (.imad k f) k f (srcABC f) 1
      (one fun l => satOr f (iv f (a1 l) * iv f (a2 l) + iv f (a3 l)) (a1 l * a2 l + a3 l)) ∧
    AluEffect (.imin k f) k f (srcAB f) 1 (one fun l => if iv f (a2 l) < iv f (a1 l) then a2 l else a1 l) ∧
    AluEffect (.imax k f) k f (srcAB f) 1 (one fun l => if iv f (a1 l) < iv f (a2 l) then a2 l else a1 l) ∧
    AluEffect (.iabs k f) k f (srcA f) 1
      (one fun l => if isSat f ∧ a1 l = 0x80000000 then 0x7FFFFFFF else if (a1 l).msb then -a1 l else a1 l) ∧
    AluEffect (.ineg k f) k f (srcA f) 1 (one fun l => if isSat f ∧ a1 l = 0x80000000 then 0x7FFFFFFF else -a1 l)

/-- Restoring division steps, shifts and rotates (09 R156, R157). -/
def Obligations.DivisionAndShifts : Prop :=
  ∀ (k : UL) (f : FR),
    AluEffect (.idivs k f) k f ((pairCodes f.a.toNat).map (·, kInt) ++ [(f.b.toNat, kInt)]) 2 (fun _ l =>
      let y := 2 * (a2 l).toNat + (a1 l).toNat / 2 ^ 31
      if (a3 l).toNat ≤ y then { val := wn (2 * (a1 l).toNat + 1), hi := some (wn (y - (a3 l).toNat)) }
      else { val := wn (2 * (a1 l).toNat), hi := some (wn y) }) ∧
    AluEffect (.shl k f) k f (srcAB f) 1 (one fun l => wn ((a1 l).toNat * 2 ^ ((a2 l).toNat % 256))) ∧
    AluEffect (.shr k f) k f (srcAB f) 1 (one fun l => wn ((a1 l).toNat / 2 ^ ((a2 l).toNat % 256))) ∧
    AluEffect (.sar k f) k f (srcAB f) 1 (one fun l => w32 ((a1 l).toInt / 2 ^ ((a2 l).toNat % 256))) ∧
    AluEffect (.rotl k f) k f (srcAB f) 1
      (one fun l => wn ((a1 l).toNat * 2 ^ ((a2 l).toNat % 32) + (a1 l).toNat / 2 ^ (32 - (a2 l).toNat % 32))) ∧
    AluEffect (.rotr k f) k f (srcAB f) 1
      (one fun l => wn ((a1 l).toNat / 2 ^ ((a2 l).toNat % 32) + (a1 l).toNat * 2 ^ (32 - (a2 l).toNat % 32))) ∧
    AluEffect (.dsh k f) k f (srcABC f) 1 (one fun l =>
      let x := (a2 l).toNat * 2 ^ 32 + (a1 l).toNat
      if (immOf f.ext).testBit 0 then wn (x * 2 ^ ((a3 l).toNat % 64) / 2 ^ 32) else wn (x / 2 ^ ((a3 l).toNat % 64)))

/-- Bit counts, bit fields and carry-less products (09 R158, R159). -/
def Obligations.BitsAndFields : Prop :=
  ∀ (k : UL) (f : FR),
    AluEffect (.popc k f) k f (srcA f) 1 (one fun l => wn ((List.range 32).filter (a1 l).getLsbD).length) ∧
    AluEffect (.clz k f) k f (srcA f) 1 (one fun l => if a1 l = 0 then 32 else wn (31 - Nat.log2 (a1 l).toNat)) ∧
    AluEffect (.ctz k f) k f (srcA f) 1 (one fun l => wn (((List.range 32).takeWhile fun i => !(a1 l).getLsbD i).length)) ∧
    AluEffect (.brev k f) k f (srcA f) 1 (one fun l => bitsWord fun i => (a1 l).getLsbD (31 - i)) ∧
    AluEffect (.bfx k f) k f (srcAB f) 1 (one fun l => bitsWord fun i =>
      if i < fieldLen (a2 l) then (a1 l).getLsbD (fieldPos (a2 l) + i)
      else !isU f && fieldLen (a2 l) ≠ 0 && (a1 l).getLsbD (fieldPos (a2 l) + fieldLen (a2 l) - 1)) ∧
    AluEffect (.bfi k f) k f (srcABC f) 1 (one fun l => bitsWord fun i =>
      if fieldPos (a2 l) ≤ i ∧ i < fieldPos (a2 l) + fieldLen (a2 l) then (a3 l).getLsbD (i - fieldPos (a2 l)) else (a1 l).getLsbD i) ∧
    AluEffect (.clmul k f) k f (srcAB f) 1 (one fun l => bitsWord fun i => polyBit (a1 l) (a2 l) i) ∧
    AluEffect (.clmulh k f) k f (srcAB f) 1 (one fun l => bitsWord fun i => polyBit (a1 l) (a2 l) (32 + i))

/-- Logic, moves, selects and packed predicates (09 R160, R169, R171). -/
def Obligations.LogicAndMoves : Prop :=
  ∀ (k : UL) (f : FR),
    AluEffect (.and k f) k f (srcAB f) 1 (one fun l => bitsWord fun i => (a1 l).getLsbD i && (a2 l).getLsbD i) ∧
    AluEffect (.or k f) k f (srcAB f) 1 (one fun l => bitsWord fun i => (a1 l).getLsbD i || (a2 l).getLsbD i) ∧
    AluEffect (.xor k f) k f (srcAB f) 1 (one fun l => bitsWord fun i => (a1 l).getLsbD i != (a2 l).getLsbD i) ∧
    AluEffect (.not k f) k f (srcA f) 1 (one fun l => bitsWord fun i => !(a1 l).getLsbD i) ∧
    AluEffect (.lgc3 k f) k f (srcABC f) 1 (one fun l => bitsWord fun i => (immOf f.ext % 256).testBit
      (((a1 l).getLsbD i).toNat + 2 * ((a2 l).getLsbD i).toNat + 4 * ((a3 l).getLsbD i).toNat)) ∧
    AluEffect (.mov k f) k f (srcA f) 1 (one fun l => wn ((a1 l).toNat +
      immOf f.ext % 2 ^ 16 * 2 ^ (if (immOf f.ext).testBit 16 then 16 else 0))) ∧
    AluEffect (.sel k f) k f (srcAB f) 1 (fun th l =>
      let p := th.predN (immOf f.ext % 8) ((immOf f.ext).testBit 3)
      { val := if p.val then a1 l else a2 l, poison := p.poison }) ∧
    AluEffect (.ppack k f) k f [] 1 (fun th _ =>
      { val := bitsWord fun i => i < 8 && (th.pred i).val, poison := (List.range 8).any fun i => (th.pred i).poison })

/-- Sums, products, the fused product and sum, and the functions of one operand (09 R161, R164, R165). That fexp2 of an infinity takes no clamp
and no SA under .sat is the model's reading (log 15). -/
def Obligations.FloatArithmetic : Prop :=
  ∀ (k : UL) (f : FR),
    (let rdn := decide (mRound (immOf f.ext) = 3)
     AluEffect (.fadd k f) k f (fsrcAB f) (if fmtOf f = .f64 then 2 else 1) (fun th l =>
      let x := Machine.Num.add rdn (fval f (a1 l)) (fval f (a2 l))
      rounded f (fmtOf f) x (nv x [fval f (a1 l), fval f (a2 l)]) th) ∧
     AluEffect (.fsub k f) k f (fsrcAB f) (if fmtOf f = .f64 then 2 else 1) (fun th l =>
      let x := Machine.Num.add rdn (fval f (a1 l)) (fval f (a2 l)).neg
      rounded f (fmtOf f) x (nv x [fval f (a1 l), (fval f (a2 l)).neg]) th) ∧
     AluEffect (.fmul k f) k f (fsrcAB f) (if fmtOf f = .f64 then 2 else 1) (fun th l =>
      let x := Machine.Num.mul (fval f (a1 l)) (fval f (a2 l))
      rounded f (fmtOf f) x (nv x [fval f (a1 l), fval f (a2 l)]) th) ∧
     AluEffect (.fma k f) k f (fsrcABC f) (if fmtOf f = .f64 then 2 else 1) (fun th l =>
      let p := Machine.Num.mul (fval f (a1 l)) (fval f (a2 l))
      let x := Machine.Num.add rdn p (fval f (a3 l))
      rounded f (fmtOf f) x (nv p [fval f (a1 l), fval f (a2 l)] ||| nv x [p, fval f (a3 l)]) th)) ∧
    AluEffect (.frcp k f) k f (fsrcA f) (if fmtOf f = .f64 then 2 else 1) (fun th l =>
      let r := recip (fval f (a1 l)); rounded f (fmtOf f) r.1 r.2 th) ∧
    AluEffect (.frsq k f) k f (fsrcA f) (if fmtOf f = .f64 then 2 else 1) (fun th l =>
      let r := rsqrtOf (fval f (a1 l)); rounded f (fmtOf f) r.1 r.2 th) ∧
    AluEffect (.fsqrt k f) k f (fsrcA f) (if fmtOf f = .f64 then 2 else 1) (fun th l =>
      let r := sqrtOf (fval f (a1 l)); rounded f (fmtOf f) r.1 r.2 th) ∧
    AluEffect (.fexp2 k f) k f (fsrcA f) (if fmtOf f = .f64 then 2 else 1) (fun th l =>
      let r := exp2Of (fval f (a1 l))
      match fval f (a1 l) with
      | .fin .. => rounded f (fmtOf f) r.1 r.2 th
      | _ => roundRes (immOf f.ext &&& 0x1DFFF) (fmtOf f) th r.1 0) ∧
    AluEffect (.flog2 k f) k f (fsrcA f) (if fmtOf f = .f64 then 2 else 1) (fun th l =>
      let r := log2Of (fval f (a1 l)); rounded f (fmtOf f) r.1 r.2 th) ∧
    AluEffect (.fround k f) k f (fsrcA f) 1 (fun th l =>
      let srs := advance (mRound (immOf f.ext)) th.srs
      let r := froundOf (fmtOf f) (mRound (immOf f.ext)) srs ((a1 l).toNat % 2 ^ (fmtOf f).width)
      { val := wn r.1, flags := r.2, srs := some srs })

/-- Operations on the codes of a format, which raise no flag: minimum and maximum with −0 below +0 and a NaN giving the other operand,
sign changes, and the class mask (09 R162, R163, R166). -/
def Obligations.FloatCodes : Prop :=
  ∀ (k : UL) (f : FR),
    (let g := fmtOf f
     let c (x : Word) : Nat := x.toNat % 2 ^ g.width
     let top : Nat := 2 ^ (g.width - 1)
     let below (x y : Machine.Num) : Prop := x.cmp y < 0 ∨ (x.cmp y = 0 ∧ x.sign = true ∧ y.sign = false)
     let pick (less : Machine.Num → Machine.Num → Prop) (x y : Nat) (r : Nat) : Prop :=
       let p := val g x
       let q := val g y
       (p.isNan = true ∧ q.isNan = true → some r = (g.float?.bind (·.nan)).or (some 0)) ∧ (p.isNan = true ∧ q.isNan = false → r = y) ∧
         (p.isNan = false ∧ q.isNan = true → r = x) ∧ (p.isNan = false ∧ q.isNan = false → less q p → r = y) ∧
         (p.isNan = false ∧ q.isNan = false → ¬ less q p → r = x)
     (∃ op : Nat → Nat → Nat, (∀ x y, pick below x y (op x y)) ∧
       AluEffect (.fmin k f) k f (fsrcAB f) 1 (one fun l => wn (op (c (a1 l)) (c (a2 l))))) ∧
     (∃ op : Nat → Nat → Nat, (∀ x y, pick (fun u v => below v u) x y (op x y)) ∧
       AluEffect (.fmax k f) k f (fsrcAB f) 1 (one fun l => wn (op (c (a1 l)) (c (a2 l))))) ∧
     AluEffect (.fabs k f) k f (fsrcA f) 1 (one fun l => wn (c (a1 l) % top)) ∧
     AluEffect (.fneg k f) k f (fsrcA f) 1 (one fun l => wn (c (a1 l) ^^^ top)) ∧
     AluEffect (.fcopysign k f) k f (fsrcAB f) 1 (one fun l => wn (c (a1 l) % top + c (a2 l) / top * top)) ∧
     AluEffect (.fclass k f) k f (fsrcA f) 1 (one fun l => wn (classMask g (c (a1 l)))))

/-- Conversions (09 R172, R173, R174): one value into another format, two or four values into a pair of elements, and one element out. That
cvtsp between equal formats keeps its code without SA under .sat (log 109), and that an E8M0 source of cvt reads the low 8 bits of an integer
literal (log 14), are the model's choices. -/
def Obligations.Conversions : Prop :=
  ∀ (k : UL) (f : FR),
    (let im := immOf f.ext
     let sg := Fmt.ofCode (mSrc im)
     let dg := Fmt.ofCode (mDst im)
     let code (x : Word) : Nat := x.toNat % 2 ^ sg.width
     AluEffect (.cvt k f) k f (cvtCodes sg f.a.toNat) (if dg = .f64 then 2 else 1) (fun th l =>
       let c := if sg = .f64 then (a2 l).toNat * 2 ^ 32 + (a1 l).toNat else code (a1 l)
       if sg = dg ∧ (val sg c).isNan = false then
         { val := wn c, hi := if dg = .f64 then some (wn (c / 2 ^ 32)) else none, srs := some (advance (mRound im) th.srs) }
       else rounded f dg (val sg c) 0 th) ∧
     AluEffect (.cvtpk k f) k f
       ((f.d.toNat, kInt) :: (if dg = .k4x then [f.a.toNat, f.a.toNat + 1, f.a.toNat + 2, f.a.toNat + 3] else [f.a.toNat, f.b.toNat]).map
         (·, kFmt sg)) 1 (fun th l =>
       if dg = .k4x then
         let r := k4xPack ((l.drop 1).take 4 ++ List.replicate (4 - (l.drop 1).length) 0 |>.map fun x => val sg (code x)) (mRound im) th.srs
         { val := setBits (a1 l) (16 * (im % 4)) 16 r.1.code, flags := r.1.flags, srs := some r.2 }
       else
         let r := rndS (val sg (code (a2 l))) dg (mRound im) (mSat im) th.srs
         let r' := rndS (val sg (code (a3 l))) dg (mRound im) (mSat im) r.2
         { val := setBits (setBits (a1 l) (2 * (im % 4) * dg.width) dg.width r.1.code) ((2 * (im % 4) + 1) * dg.width) dg.width r'.1.code
           flags := r.1.flags ||| r'.1.flags, srs := some r'.2 }) ∧
     (dg ≠ .f64 → AluEffect (.cvtsp k f) k f [(f.a.toNat, kPacked sg)] 1 (fun th l =>
       match element sg (a1 l) (im % 8) with
       | some x =>
         if mSrc im = mDst im ∧ x.isNan = false then
           { val := wn (field (a1 l).toNat (sg.width * (im % 8)) sg.width), srs := some (advance (mRound im) th.srs) }
         else rounded f dg x 0 th
       | none => { poison := true, srs := some (advance (mRound im) th.srs) })))

/-- Compares, predicate logic and unpacking write predicates and nothing else (09 R167, R168, R170, R171, R177); a poisoned
source poisons the predicate, and the write to p7 is discarded (01 R32). -/
def Obligations.PredicateResults : Prop :=
  ∀ (k : UL) (f : FR),
    (let put (v : Thread → List Word → PBool) (codes : List (Nat × (Nat → Word))) :=
       fun (s : State) (i : Issue) (g : Group) (ps : List Nat) (t : Nat) (th : Thread) =>
         let u := sourceOf k ps t
         let bad := codes.any fun c => (s.src i c.2 u c.1).poison
         let r := v (g.thread u) (codes.map fun c => (s.src i c.2 u c.1).val)
         th.setPred f.d.toNat { val := r.val && !(bad || r.poison), poison := bad || r.poison }
     ThreadEffect (.icmp k f) f.ext (srcAB f) (put (fun _ l =>
       { val := match immOf f.ext % 8 with
           | 0 => iv f (a1 l) = iv f (a2 l) | 1 => iv f (a1 l) ≠ iv f (a2 l) | 2 => iv f (a1 l) < iv f (a2 l)
           | 3 => iv f (a1 l) ≤ iv f (a2 l) | 4 => iv f (a2 l) < iv f (a1 l) | _ => iv f (a2 l) ≤ iv f (a1 l)
         poison := false }) (srcAB f)) ∧
     ThreadEffect (.fcmp k f) f.ext (fsrcAB f) (put (fun _ l =>
       { val := floatCond (immOf f.ext % 8) (fval f (a1 l)) (fval f (a2 l)), poison := false }) (fsrcAB f)) ∧
     ThreadEffect (.plop k f) f.ext [] (put (fun th _ =>
       let a := th.pred (immOf f.ext / 2 ^ 14 % 8)
       let b := th.pred (immOf f.ext / 2 ^ 11 % 8)
       let c := th.pred (immOf f.ext / 2 ^ 8 % 8)
       { val := (immOf f.ext).testBit (a.val.toNat + 2 * b.val.toNat + 4 * c.val.toNat), poison := a.poison || b.poison || c.poison }) [])) ∧
    ThreadEffect (.punpk k f) f.ext (srcA f) (fun s i _ ps t th =>
      let x := s.src i kInt (sourceOf k ps t) f.a.toNat
      (List.range 7).foldl (fun th n => th.setPred n { val := x.val.getLsbD n && !x.poison, poison := x.poison }) th)

/-- Votes and the seed of the rounding state (09 R177, R179), in every thread that takes them. -/
def Obligations.VotesAndSeed : Prop :=
  ∀ f : FR,
    (let js (ps : List Nat) (t : Nat) := seg (32 / 2 ^ (immOf f.ext / 16 % 8)) ps t
     ThreadEffect (.vany f) f.ext [] (fun _ _ g ps t th => th.setPred f.d.toNat
       { val := (js ps t).any fun j => (psrc f g j).val, poison := (js ps t).any fun j => (psrc f g j).poison }) ∧
     ThreadEffect (.vall f) f.ext [] (fun _ _ g ps t th => th.setPred f.d.toNat
       { val := (js ps t).all fun j => (psrc f g j).val, poison := (js ps t).any fun j => (psrc f g j).poison }) ∧
     RegEffect (.vballot f) f 1 (fun _ _ g ps t =>
       [pw (bitsWord fun j => decide (j ∈ js ps t) && (psrc f g j).val) ((js ps t).any fun j => (psrc f g j).poison)])) ∧
    ThreadEffect (.srseed f) f.ext [] (fun s i _ _ t th =>
      let x := s.src i kInt t f.a.toNat
      if x.poison then th else { th with srs := if x.val = 0 then 1 else x.val })

/-- The lane exchanges (09 R176): the thread of the segment whose value each thread receives, or the third source where that thread does
not take the word. -/
def Obligations.LaneExchanges : Prop :=
  ∀ f : FR,
    (let w := 32 / 2 ^ (immOf f.ext % 8)
     let get (lane : Nat → Nat → Nat) := fun (s : State) (i : Issue) (_ : Group) (ps : List Nat) (t : Nat) =>
       let b := s.src i kInt t f.b.toNat
       let j := lane t (b.val.toNat % 32)
       [if b.poison then poisoned else if j ∈ ps then s.src i kInt j f.a.toNat else s.src i kInt t (thirdOf f.ext)]
     RegEffect (.xfrom f) f 1 (get fun t n => t - t % w + n % w) ∧
     RegEffect (.xlow f) f 1 (get fun t n => t - t % w + (t % w + w - n % w) % w) ∧
     RegEffect (.xhigh f) f 1 (get fun t n => t - t % w + (t % w + n) % w) ∧
     RegEffect (.xpair f) f 1 (get fun t n => t ^^^ (n % w)))

/-- Scans and reductions over the threads of a segment that take the word (09 R178). -/
def Obligations.ScansAndReductions : Prop :=
  ∀ f : FR,
    (let w := 32 / 2 ^ (immOf f.ext % 8)
     let scanned (ps : List Nat) (t : Nat) : List Nat :=
       (seg w ps t).filter fun j => if (immOf f.ext).testBit 3 then decide (j < t) else decide (j ≤ t)
     let fold (js : List Nat → Nat → List Nat) (op : Word → Word → Word) (z : Word) :=
       fun (s : State) (i : Issue) (_ : Group) (ps : List Nat) (t : Nat) =>
         [pw ((js ps t).foldl (fun v j => op v (s.src i kInt j f.a.toNat).val) z) ((js ps t).any fun j => (s.src i kInt j f.a.toNat).poison)]
     let larger (x y : Word) : Word := if iv f x < iv f y then y else x
     let smaller (x y : Word) : Word := if iv f y < iv f x then y else x
     let low : Word := if isU f then 0 else 0x80000000
     let high : Word := if isU f then 0xFFFFFFFF else 0x7FFFFFFF
     RegEffect (.scanadd f) f 1 (fold scanned (· + ·) 0) ∧ RegEffect (.scanxor f) f 1 (fold scanned (· ^^^ ·) 0) ∧
     RegEffect (.scanmax f) f 1 (fold scanned larger low) ∧ RegEffect (.scanmin f) f 1 (fold scanned smaller high) ∧
     RegEffect (.redadd f) f 1 (fold (seg w) (· + ·) 0) ∧ RegEffect (.redxor f) f 1 (fold (seg w) (· ^^^ ·) 0) ∧
     RegEffect (.redmax f) f 1 (fold (seg w) larger low) ∧ RegEffect (.redmin f) f 1 (fold (seg w) smaller high))

/-! Special registers, and what is noted in a thread (class S). -/

namespace Sys2Proof.Claim

/-- 13 R235: a special register as thread `t` of a group reads it: its value, and whether it is poisoned. -/
def sr (s : State) (i : Issue) (m : Team) (g : Group) (th : Thread) (n : Nat) : Nat × Bool :=
  match n with
  | 0 => (s.dt, false) | 2 => (g.gwctmax, false) | 4 => (th.fstat.toNat, false) | 5 => (th.srs.toNat, false)
  | 6 => (g.role, false) | 7 => (m.launchid.toNat, false) | 8 => (m.x.toNat, false) | 9 => (m.y.toNat, false)
  | 10 => (m.z.toNat, false) | 11 => (i.tk / 16, false) | 12 => (m.tenant, false) | 13 => (th.encdet.toNat, false)
  | 14 => (th.h.toNat + 2 * th.dbg.toNat + 4 * th.skip.toNat + 8 * th.derr.toNat, false) | 15 => (th.xcause.toNat, false)
  | 16 => (th.xpc.val.toNat, th.xpc.poison) | 18 => (th.xaddr.toNat, false) | 20 => (th.xdet.val.toNat, th.xdet.poison)
  | 21 => (m.hframe, false) | 22 => (m.hentry, false) | 24 => ((s.core (i.tk / 16)).dentry.toNat, false)
  | 26 => (m.stepdone.toNat, false) | 27 => (th.smpltag.toNat, false) | 28 => (g.linkBase, false) | 30 => (g.linkSize, false)
  | 31 => (g.spillSize, false) | 32 => (g.spillBase, false) | _ => (0, false)
/-- 13 R235: the numbers of the 64-bit registers. -/
def wide (n : Nat) : Bool := n ∈ [0, 2, 16, 18, 22, 24, 28, 32]
/-- The registers that a special register is read into (13 R234). -/
def srWords (v : Nat × Bool) (two : Bool) : List PWord :=
  pw (wn v.1) v.2 :: if two then [pw (wn (v.1 / 2 ^ 32)) v.2] else []

end Sys2Proof.Claim

/-- Reading a special register (13 R234, R235): every number, from the thread, the group, the team, the core and the device. -/
def Sys2Proof.Claim.ReadSpecialRegisters : Prop :=
  ∀ (f : FR) (s : State) (i : Issue) (m : Team) (g : Group), Issuing s i m g → CleanPred i g f.ext →
    Fits .L f g (if wide f.a.toNat then 2 else 1) →
    ∃ t, exec (.rdsr f) s = .next t ∧ OnlyGroup s t i m ∧
      (∀ l c, Writes f (takers i g f.ext) (if wide f.a.toNat then 2 else 1) l c →
        (srWords (sr s i m g (g.thread (if f.d.toNat < 64 then l else (takers i g f.ext).headD 0)) f.a.toNat)
          (wide f.a.toNat))[c - f.d.toNat]? = some (t.getR i.tk i.g l c)) ∧
      (∀ l c, Named g c → ¬ Writes f (takers i g f.ext) (if wide f.a.toNat then 2 else 1) l c →
        t.getR i.tk i.g l c = s.getR i.tk i.g l c)

/-- Writing a special register of a thread (13 R236): FSTAT clears where the word has a 1, HSTAT takes SKIP and clears DERR, XPC takes the
pair with its poison, and a poisoned word leaves FSTAT and HSTAT as they are. STEPDONE, of the team, clears where a word has a 1. -/
def Sys2Proof.Claim.WriteSpecialRegisters : Prop :=
  ∀ f : FR,
    (f.d.toNat = 4 → ThreadEffect (.wrsr f) f.ext [] (fun s i _ _ t th =>
      let x := s.src i kInt t f.a.toNat
      if x.poison then th else { th with fstat := th.fstat &&& ~~~(x.val &&& 0x3F) })) ∧
    (f.d.toNat = 14 → ThreadEffect (.wrsr f) f.ext [] (fun s i _ _ t th =>
      let x := s.src i kInt t f.a.toNat
      if x.poison then th else { th with skip := x.val.getLsbD 2, derr := th.derr && !x.val.getLsbD 3 })) ∧
    (f.d.toNat = 16 → ThreadEffect (.wrsr f) f.ext [] (fun s i _ _ t th => { th with xpc := s.pair i t f.a.toNat })) ∧
    (f.d.toNat = 26 → ∀ s i m g l, Issuing s i m g → CleanPred i g f.ext → takers i g f.ext = [l] →
      ∃ t, exec (.wrsr f) s = .next t ∧ { t with teams := s.teams, issues := s.issues } = s ∧
        (∀ k, k ≠ i.tk → t.team k = s.team k) ∧
        let x := s.src i kInt l f.a.toNat
        t.team i.tk = some (if x.poison then m else { m with stepdone := m.stepdone &&& ~~~(x.val &&& 0xFFFF) }))

/-- Special registers (13 R234-R236): read and written. -/
def Obligations.SpecialRegisters : Prop := Claim.ReadSpecialRegisters ∧ Claim.WriteSpecialRegisters

/-- The sample tag (13 R245), the trap and the break (13 R231), and the regang hint (13 R226): what each thread that takes the word holds
after it, and what the clause does after its last word. A thread notes its first trap, and an integer of a bound group takes one cause; that
a hint counts from its own word is the model's choice (log 126). -/
def Obligations.TagsTrapsAndHints : Prop :=
  ∀ f : FR,
    ThreadEffect (.smpl f) f.ext [] (fun s i _ _ t th =>
      let x := s.src i kInt t f.a.toNat
      { th with smpltag := if x.poison then th.smpltag else x.val &&& 0xFFFF
                smplNext := th.smplNext || decide (immOf f.ext % 2 = 1) }) ∧
    (let after (cause : Nat) := fun (s : State) (i : Issue) (g : Group) (ps : List Nat) =>
       { i with after := ps.foldl (fun a t =>
           if (g.integer t).any (fun u => (tget? a u).any fun y => u == t || y.1 ≠ cause) then a
           else tset a t (cause, 0, s.src i kInt t f.a.toNat, 0)) i.after }
     ClauseEffect (.trap f) f.ext (after 45) ∧ ClauseEffect (.brk f) f.ext (after 46)) ∧
    ClauseEffect (.regang f) f.ext (fun s i _ ps =>
      let bound (t : Nat) : Nat := let x := s.src i kInt t f.a.toNat; if x.poison then 0 else 16 * (x.val.toNat % 2 ^ 16)
      { i with regang := (ps.filter fun t => bound t ≠ 0).foldl (fun a t => tset a t (max (tget a t 0) (s.dt + bound t))) i.regang })

/-! Transfers of control (class K). -/

namespace Sys2Proof.Claim

/-- 05 R87: the address that an offset in words names. -/
def relTo (f : FB) (i : Issue) : Nat :=
  let off : Int := match f.ext with | none => f.off.toInt | some x => sext (x.imm.toNat * 2 ^ 16 + f.off.toNat) 33
  (((i.pc : Int) + 4 * off) % 2 ^ 64).toNat
/-- 13 R220: the address after the clause. -/
def nextPc (i : Issue) : Nat := i.pc + 4 * (i.header.n.toNat + 1)
/-- 05 R87: the condition of a thread. -/
def cond (f : FB) (g : Group) (l : Nat) : PBool := (g.thread l).predN f.i.toNat f.n
/-- 13 R220: an address that a transfer may go to. -/
def Target (x : Nat) : Prop := x % 4 = 0 ∧ x < 2 ^ 56
/-- 01 R35, 13 R222: a call with frame amount `f` neither traps nor moves registers or link records out of the core. -/
def CallStays (g : Group) (th : Thread) (f : Nat) : Prop :=
  callFails g th f = none ∧ th.wb + f + min 64 g.ba ≤ th.rb + g.ba ∧ (5 ≤ th.cd + 1 → tget? th.links (th.cd - 3) = none)
/-- 13 R222: the thread after a call: a link record pushed, the window moved up. -/
def called (i : Issue) (code x : Nat) (th : Thread) : Thread :=
  { th with pc := x, wb := th.wb + 8 * code, cd := th.cd + 1
            links := tset th.links (th.cd + 1) { val := BitVec.ofNat 64 (nextPc i % 2 ^ 56 + code % 16 * 2 ^ 56), poison := false } }

end Sys2Proof.Claim

/-- Branches (13 R220, R221) of an unbound group: a thread whose condition is true goes to the target, every other one goes on; under
`.lead` all follow the lowest. -/
def Obligations.Branches : Prop :=
  ∀ (f : FB) (s : State) (i : Issue) (m : Team) (g : Group), Issuing s i m g → g.limbs = none →
    (∀ l ∈ i.live, (cond f g l).poison = false) →
    (Target (relTo f i) →
      TransferEffect (.bra f) i.live s i m g (fun l th => if (cond f g l).val then some { th with pc := relTo f i } else none) ∧
      TransferEffect (.braLead f) i.live s i m g
        (fun _ th => if (cond f g (i.live.headD 0)).val then some { th with pc := relTo f i } else none)) ∧
    ((∀ l ∈ i.live, (s.pair i l (f.off.toNat / 256)).poison = false ∧ Target (s.pair i l (f.off.toNat / 256)).val.toNat) →
      TransferEffect (.brar f) i.live s i m g
        (fun l th => if (cond f g l).val then some { th with pc := (s.pair i l (f.off.toNat / 256)).val.toNat } else none))

/-- Calls (13 R220, R222; 01 R35) of an unbound group that stay within the core: the link record, the window and the address. -/
def Obligations.Calls : Prop :=
  ∀ (f : FB) (s : State) (i : Issue) (m : Team) (g : Group), Issuing s i m g → g.limbs = none →
    (∀ l ∈ i.live, (cond f g l).poison = false ∧ CallStays g (g.thread l) (8 * f.frame.toNat)) →
    (Target (relTo f i) → TransferEffect (.call f) i.live s i m g
      (fun l th => if (cond f g l).val then some (called i f.frame.toNat (relTo f i) th) else none)) ∧
    ((∀ l ∈ i.live, (s.pair i l (f.off.toNat / 256)).poison = false ∧ Target (s.pair i l (f.off.toNat / 256)).val.toNat) →
      TransferEffect (.callr f) i.live s i m g
        (fun l th => if (cond f g l).val then some (called i f.frame.toNat (s.pair i l (f.off.toNat / 256)).val.toNat th) else none))

/-- Returns (13 R223, R232; 01 R35) of an unbound group whose link records and registers are in the core: from a call to the address of
the record, from a handler to XPC with H and DBG cleared. -/
def Obligations.Returns : Prop :=
  ∀ (f : FR) (s : State) (i : Issue) (m : Team) (g : Group), Issuing s i m g → g.limbs = none → CleanPred i g f.ext →
    (let stays (l : Nat) (trap : Bool) : Prop := ∃ r, tget? (g.thread l).links (g.thread l).cd = some r ∧ (g.thread l).cd ≠ 0 ∧
       r.poison = false ∧ r.val.getLsbD 60 = trap ∧ (g.thread l).rb ≤ (g.thread l).wb - 8 * (r.val.toNat / 2 ^ 56 % 16)
     let rec? (th : Thread) : Nat := ((tget? th.links th.cd).getD default).val.toNat
     let back (th : Thread) : Thread :=
       { th with wb := th.wb - 8 * (rec? th / 2 ^ 56 % 16), cd := th.cd - 1, links := terase th.links th.cd }
     ((∀ l ∈ takers i g f.ext, stays l false) →
       TransferEffect (.ret f) (takers i g f.ext) s i m g (fun _ th => some { back th with pc := rec? th % 2 ^ 56 })) ∧
     ((∀ l ∈ takers i g f.ext, stays l true ∧ (g.thread l).xpc.poison = false ∧ Target (g.thread l).xpc.val.toNat) →
       TransferEffect (.tret f) (takers i g f.ext) s i m g
         (fun _ th => some { back th with pc := th.xpc.val.toNat, h := false, dbg := false })))

/-- Exit (13 R225; 01 R41, R44) in an unbound group: the threads that take it are Exited and leave the clause; no register of any thread and
no byte of memory changes. Each barrier that one thread takes part in deducts it: where it has arrived, among the deductions of the phase; else
from the number expected, and where that completes the phase the barrier releases. -/
def Obligations.Exits : Prop :=
  ∀ (f : FR) (s : State) (i : Issue) (m : Team) (g : Group), Issuing s i m g → g.limbs = none → CleanPred i g f.ext →
    ∃ t, exec (.exit f) s = .next t ∧
      (∀ l, ∃ st, t.thread i.tk i.g l = (s.thread i.tk i.g l).map fun th =>
        if l ∈ takers i g f.ext then { th with st := .exited, haltPend := false, step := false, halted := false, held := [] }
        else { th with st := st }) ∧
      (∀ l n b, takers i g f.ext = [l] → n < 16 → (g.thread l).st ≠ .exited → b.roles.testBit g.role = true → s.arriving i.tk i.g l n = false →
        (tget? m.bars n = some b ∨ (b = m.bar n ∧ tsorted m.groups = true ∧ tsorted g.th = true)) →
        (t.team i.tk).map (·.bar n) = some (
          if 32 * i.g + l ∈ b.arrived then { b with pend := b.pend + 1 }
          else if b.a = b.e - 1 ∧ b.a ≠ 0 then { b with phase := !b.phase, a := 0, arrived := [], e := b.e - 1 - b.pend, pend := 0 }
          else { b with e := b.e - 1 })) ∧
      (∃ i', t.cur = some i' ∧ ∀ l, l ∈ i'.live ↔ l ∈ i.live ∧ l ∉ takers i g f.ext) ∧
      (∀ l c, t.getR i.tk i.g l c = s.getR i.tk i.g l c) ∧ (∀ a, mget t.mem a = mget s.mem a)

/-- Taking a trap (13 R228, R229) where the handler can be entered: XPC, XCAUSE, XADDR and XDET are saved, a link record of a trap is
pushed, the window moves up by HFRAME, and the thread stands in handler mode at the entry. -/
def Sys2Proof.Claim.TrapEntry : Prop :=
  ∀ (s : State) (tk g l : Nat) (m : Team) (gr : Group) (th : Thread) (x : Trap),
    s.team tk = some m → tget? m.groups g = some gr → tget? gr.th l = some th → th.h = false →
    (∀ i ∈ s.issues, i.tk = tk → i.g = g → ∀ u ∈ gr.integer l, tget? i.after u = none) →
    (let entry := if x.cause ∈ [46, 47, 48] ∧ (s.core (tk / 16)).dentry ≠ 0 then (s.core (tk / 16)).dentry.toNat else m.hentry
     entry ≠ 0 → CallStays gr th m.hframe →
      (s.trapOne tk g l x).thread tk g l = some { th with
        xpc := { val := BitVec.ofNat 64 x.xpc, poison := false }, xcause := wn (x.cause % 64 + x.widx % 16 * 512)
        xaddr := BitVec.ofNat 64 x.xaddr, xdet := x.xdet, h := true, dbg := decide (x.cause ∈ [46, 47, 48])
        skip := if x.cause = 47 then true else th.skip, pc := entry, wb := th.wb + m.hframe, cd := th.cd + 1
        links := tset th.links (th.cd + 1)
          { val := BitVec.ofNat 64 (x.xpc % 2 ^ 56 + m.hframe / 8 % 16 * 2 ^ 56 + 2 ^ 60), poison := false } } ∧
      (∀ n, n ≠ l → (s.trapOne tk g l x).thread tk g n = s.thread tk g n) ∧
      (∀ k, k ≠ tk → (s.trapOne tk g l x).team k = s.team k) ∧ (∀ a, mget (s.trapOne tk g l x).mem a = mget s.mem a))

/-- A trap that cannot be delivered kills its thread (13 R228): in handler mode, or with no entry, the thread is Exited with its registers
as they stood. -/
def Sys2Proof.Claim.TrapKills : Prop :=
  ∀ (s : State) (tk g l : Nat) (m : Team) (gr : Group) (th : Thread) (x : Trap),
    s.team tk = some m → tget? m.groups g = some gr → tget? gr.th l = some th → gr.limbs = none → th.st ≠ .exited →
    (th.h = true ∨ (m.hentry = 0 ∧ x.cause ∉ [46, 47, 48] ∧ ∀ i ∈ s.issues, i.tk = tk → i.g = g → tget? i.after l = none)) →
    (s.trapOne tk g l x).thread tk g l =
      some { th with st := .exited, haltPend := false, step := false, halted := false, held := [] } ∧
    ((s.trapOne tk g l x).team tk).map (·.failed) = some true ∧ (∀ a, mget (s.trapOne tk g l x).mem a = mget s.mem a)

namespace Sys2Proof.Claim

/-- A candidate of an unbound group at its clause header, with no step 6 failure behind it: its threads are Ready, below handler mode, and
their calls of the handler stay in the core. -/
structure AtHeader (s : State) (tk k lead : Nat) (m : Team) (g : Group) (c : List Nat) (pc : Nat) : Prop where
  team : s.team tk = some m
  group : tget? m.groups k = some g
  openNow : s.groupOpen tk k = true
  cand : (g.cands.find? fun c => c.headD 32 == lead) = some c
  limbs : g.limbs = none
  some_ : c ≠ []
  once : c.Nodup
  entry : m.hentry ≠ 0
  ready : ∀ n ∈ c, (tget? g.th n).isSome = true ∧ (g.thread n).pc = pc ∧ (g.thread n).st = .ready ∧ (g.thread n).halted = false ∧
    (g.thread n).h = false ∧ CallStays g (g.thread n) m.hframe
  alone : ∀ i ∈ s.issues, i.tk = tk → i.g = k → ∀ n ∈ c, n ∉ i.cand ∧ tget? i.after n = none

/-- No word of the clause acts and no clause begins: each thread that `what` gives a cause, an address and a detail stands in its handler
with them, at widx 0 and the clause header; every other thread of the group stays where it is; no register of either and no byte of memory
changes. -/
def TrapsThere (s t : State) (tk k : Nat) (m : Team) (g : Group) (pc : Nat) (what : Nat → Option (Nat × Nat × Word)) : Prop :=
  t.issues.length = s.issues.length ∧ (∀ a, mget t.mem a = mget s.mem a) ∧ ∀ n th, tget? g.th n = some th →
    ∃ th', t.thread tk k n = some th' ∧ th'.v = th.v ∧ th'.p = th.p ∧ th'.ppois = th.ppois ∧
      match what n with
      | some (cause, xaddr, xdet) => th'.h = true ∧ th'.pc = m.hentry ∧ th'.wb = th.wb + m.hframe ∧ th'.cd = th.cd + 1 ∧
          th'.xpc = { val := BitVec.ofNat 64 pc, poison := false } ∧ th'.xcause = wn cause ∧ th'.xaddr = BitVec.ofNat 64 xaddr ∧
          th'.xdet = clean xdet
      | none => th'.h = th.h ∧ th'.pc = th.pc ∧ th'.wb = th.wb ∧ th'.cd = th.cd

/-- A clause issue that does not go on (02 R34; 05 R97, R106, R107, R108; 13 R233): a fetch fault parks the group or traps, with the header's
address or the first byte of the next page; an illegal pattern traps and stands in ENCDET; so do a register outside the window, and, in the
threads concerned, a register that is pending and a privileged word below handler mode. -/
def IssueTraps : Prop :=
  ∀ (s : State) (tk k lead : Nat) (m : Team) (g : Group) (c : List Nat) (pc : Nat), AtHeader s tk k lead m g c pc →
    (∀ cause addr d s', s.fetchFor tk k c (tk / 16) m.ctx pc = (.error (cause, addr, d), s') →
      (addr = pc ∨ (pc / 4096 ≠ (pc + 60) / 4096 ∧ addr = (pc / 4096 + 1) * 4096)) ∧
      ∃ t, exec (.clauseIssue tk k lead) s = .next t ∧
        (3 < cause → cause < 64 → TrapsThere s t tk k m g pc fun n => if n ∈ c then some (cause, addr, 0) else none) ∧
        (cause ≤ 3 → (∀ a, mget t.mem a = mget s.mem a) ∧ ∃ g', t.group tk k = some g' ∧ g'.th = g.th ∧ g'.parked = true)) ∧
    (∀ h ws s', s.fetchFor tk k c (tk / 16) m.ctx pc = (.ok (h :: ws), s') →
      (∀ e, decodeClause h ws = .error e → ∃ t, exec (.clauseIssue tk k lead) s = .next t ∧
        TrapsThere s t tk k m g pc (fun n => if n ∈ c then some (29, if e.reason = 11 then pc else 0, 0) else none) ∧
        ∀ n ∈ c, (t.thread tk k n).map (·.encdet) = some (wn (e.widx % 16 + e.reason % 16 * 16 + e.fieldv % 256 * 256))) ∧
      (∀ hd l, decodeClause h ws = .ok (hd, l) →
        (∃ x ∈ l, ∃ r ∈ readRegs x.2 ++ writeRegs x.2, (r.1 < 64 ∧ g.window < r.1 + r.2) ∨ (64 ≤ r.1 ∧ 128 < r.1 + r.2)) →
        ∃ t, exec (.clauseIssue tk k lead) s = .next t ∧
          TrapsThere s t tk k m g pc fun n => if n ∈ c then some (31, 0, 0) else none)) ∧
    (∀ i l s', s.prepare tk k c = some (.go i l s') → s.granted tk k c = true → (s.core (tk / 16)).cmps = [] →
      (∀ n ∈ c, ((g.thread n).predN i.header.p.toNat i.header.pn).poison = false) →
      (let fails (n : Nat) : Option (Nat × Nat × Word) :=
         if n ∉ c ∨ ((g.thread n).predN i.header.p.toNat i.header.pn).val = false then none else
         match s'.hazard i l n with
         | some (code, slot, widx) => some (30, 0, wn (code + slot * 2 ^ 8 + widx * 2 ^ 11))
         | none => if ∃ x ∈ l, isPrivileged x.2 = true ∧ s'.takes i x.2 n = true then some (32, 0, 0) else none
       (∃ n ∈ c, fails n ≠ none) →
       ∃ t, exec (.clauseIssue tk k lead) s = .next t ∧ TrapsThere s t tk k m g pc fails))

end Sys2Proof.Claim

/-- Traps (13 R228, R229): taken where the handler can be entered, and a kill where it cannot; and the clause issues that trap at their header
instead of going on (02 R34; 05 R97, R106-R108; 13 R233). -/
def Obligations.TrapDelivery : Prop := Claim.TrapEntry ∧ Claim.TrapKills ∧ Claim.IssueTraps

/-! Loads, stores and atomics (class M). -/

namespace Sys2Proof.Claim

/-- One thread takes a memory word, in a core that has no access in progress, no watchpoint and no sampling. -/
structure MemReady (s : State) (i : Issue) (m : Team) (g : Group) (e : Option Ext) (l : Nat) : Prop where
  issuing : Issuing s i m g
  clean : CleanPred i g e
  taker : takers i g e = [l]
  live : (g.thread l).st ≠ .exited
  quiet : ∀ x ∈ s.accs, x.2.src ≠ i.tk / 16 ∧ x.2.tk ≠ i.tk ∧ x.1 < s.nextId
  noCinv : ∀ o ∈ s.ops, o.2.tk ≠ i.tk
  noWatch : (s.core (i.tk / 16)).wpts = []
  noSample : (g.thread l).smplNext = false ∧ (s.core (i.tk / 16)).smplctl.toNat % 32 = 0

/-- 11 R184: the base of an access: a pair for `.g`, a word for the other spaces. -/
def base (s : State) (i : Issue) (spc : Space) (f : FM) (l : Nat) : Nat × Bool :=
  match spc with
  | .g => ((s.pair i l f.a.toNat).val.toNat, (s.pair i l f.a.toNat).poison)
  | _ => ((s.src i kInt l f.a.toNat).val.toNat, (s.src i kInt l f.a.toNat).poison)
/-- 11 R184: the effective address. -/
def ea (s : State) (i : Issue) (spc : Space) (f : FM) (l : Nat) : Int :=
  (base s i spc f l).1 + match f.ext with | some x => sext x.imm.toNat 17 | none => 0
/-- The bytes of an access (11 R185), and the registers of its data group. -/
def width (f : FM) : Nat := 2 ^ f.width.toNat
def regsOf (f : FM) : Nat := if f.width.toNat = 4 then 4 else if f.width.toNat = 3 then 2 else 1
/-- 11 R191: the bytes that a store takes out of its data registers, and whether one of them is poisoned. -/
def stored (s : State) (i : Issue) (f : FM) (l : Nat) : List Byte × Bool :=
  let rs := (List.range (regsOf f)).map fun k => s.src i kInt l (f.d.toNat + k)
  ((rs.flatMap fun x => leBytes 4 x.val.toNat).take (width f), rs.any (·.poison))
/-- An address of an access that is in a space of `size` bytes and aligned (11 R184, R186). -/
def InSpace (x : Int) (size n : Nat) : Prop := 0 ≤ x ∧ x < size ∧ x % n = 0
/-- 11 R192: what an atomic on words of `n` bits writes over `old`, none for no write. -/
def atomWrites (op : AtomOp) (n old c cmp : Nat) : Option Nat :=
  match op with
  | .add => some ((old + c) % 2 ^ n)
  | .min => some (if sext c n < sext old n then c else old)
  | .max => some (if sext old n < sext c n then c else old)
  | .and => some (Nat.land old c) | .or => some (Nat.lor old c) | .xor => some (Nat.xor old c) | .xchg => some c
  | .cas => if old = cmp then some c else none
  | .fadd => some (rnd (Machine.Num.add false (val .f32 old) (val .f32 c)) .f32 0 false 0).code
  | .fmin => some (fminmax .f32 false old c)
  | .fmax => some (fminmax .f32 true old c)
/-- The atomics of a space, with their operations. -/
def sharedAtomics : List ((FM → Instr) × AtomOp) :=
  [(.atomShAdd, .add), (.atomShMin, .min), (.atomShMax, .max), (.atomShAnd, .and), (.atomShOr, .or), (.atomShXor, .xor),
   (.atomShXchg, .xchg), (.atomShCas, .cas), (.atomShFadd, .fadd), (.atomShFmin, .fmin), (.atomShFmax, .fmax)]
def globalAtomics : List ((FM → Instr) × AtomOp) :=
  [(.atomGAdd, .add), (.atomGMin, .min), (.atomGMax, .max), (.atomGAnd, .and), (.atomGOr, .or), (.atomGXor, .xor),
   (.atomGXchg, .xchg), (.atomGCas, .cas), (.atomGFadd, .fadd), (.atomGFmin, .fmin), (.atomGFmax, .fmax)]
def scratchAtomics : List ((FM → Instr) × AtomOp) :=
  [(.atomSpAdd, .add), (.atomSpMin, .min), (.atomSpMax, .max), (.atomSpAnd, .and), (.atomSpOr, .or), (.atomSpXor, .xor),
   (.atomSpXchg, .xchg), (.atomSpCas, .cas), (.atomSpFadd, .fadd), (.atomSpFmin, .fmin), (.atomSpFmax, .fmax)]
/-- The operand of an atomic: new value, compare value and poison (11 R192), out of the third source. -/
def operand (s : State) (i : Issue) (op : AtomOp) (f : FM) (l : Nat) : List Byte × List Byte × Bool :=
  s.atomData i (match op with | .cas => .cas | .fadd | .fmin | .fmax => .fatom | _ => .atom) f l
/-- What an access does not change: memory, the registers but those of `n` from `d` on, and every other team. -/
def OnlyRegs (s t : State) (i : Issue) (g : Group) (f : FM) (n l : Nat) : Prop :=
  (∀ a, mget t.mem a = mget s.mem a) ∧ (∀ k, k ≠ i.tk → t.team k = s.team k) ∧
  ∀ k c, Named g c → ¬(f.w = false ∧ f.d.toNat ≤ c ∧ c < f.d.toNat + n ∧ (c < 64 → k = l)) → t.getR i.tk i.g k c = s.getR i.tk i.g k c
/-- The destination stands in its file; no clause granted later has written a scalar one (01 R31). -/
def FitsM (f : FM) (i : Issue) (g : Group) (n : Nat) : Prop :=
  (f.d.toNat + n ≤ 64 ∧ f.d.toNat + n ≤ g.ba) ∨
    (64 ≤ f.d.toNat ∧ f.d.toNat + n ≤ 128 ∧ ∀ k, k < n → tget g.sLast (f.d.toNat - 64 + k) 0 ≤ i.id)
/-- An access on its way out of a core: what it is, where it goes and what it carries. -/
def Sent (s t : State) (i : Issue) (m : Team) (spc : Space) (kind : AKind) (f : FM) (l key : Nat) (dst : Bool) (data cmp : List Byte) :
    Prop :=
  ∃ a, tget? t.accs (s.nextId + 1) = some a ∧ a.kind = kind ∧ a.space = spc ∧ a.src = i.tk / 16 ∧ a.tk = i.tk ∧ a.g = i.g ∧ a.lanes = [l] ∧
    a.ctx = m.ctx ∧ a.va = (ea s i spc f l).toNat ∧ a.key = key ∧ a.width = width f ∧ a.data = data ∧ a.cmp = cmp ∧
    a.order = f.order.toNat ∧ a.scope = f.scope.toNat ∧ a.dst = (if dst ∧ f.w = false then some f.d.toNat else none) ∧
    a.stage = .core ∧ a.dt = s.dt ∧ a.op = some s.nextId ∧ ∃ o, tget? t.ops s.nextId = some o ∧ o.left = 1 ∧
      o.slot = (match f.ext with | some x => x.ws.toNat | none => 0)

end Sys2Proof.Claim

/-- A shared-memory load (11 R184, R185, R190) takes its bytes at once: the destination registers hold them, with the poison of their
words; nothing else of the group's registers changes, and no memory does. -/
def Sys2Proof.Claim.SharedLoads : Prop :=
  ∀ (f : FM) (s : State) (i : Issue) (m : Team) (g : Group) (l : Nat), MemReady s i m g f.ext l → f.width.toNat ≤ 4 →
    (base s i .sh f l).2 = false → InSpace (ea s i .sh f l) m.shSize (width f) → FitsM f i g (regsOf f) →
    ∃ t, exec (.ldSh f) s = .next t ∧ OnlyRegs s t i g f (regsOf f) l ∧
      ((t.team i.tk).map fun x => (x.sh, x.shPoison)) = some (m.sh, m.shPoison) ∧
      (f.w = false → ∀ k, k < regsOf f → t.getR i.tk i.g l (f.d.toNat + k) =
        pw (wn (leNat (mgets m.sh (ea s i .sh f l).toNat (width f)) / 2 ^ (32 * k))) (m.shMarked (ea s i .sh f l).toNat (width f)))

/-- A shared-memory store (11 R191) writes its bytes at once, and no other byte of shared memory or of memory; a poisoned data register marks
its word, a word written whole by a clean one loses its mark, and a word written in part keeps it. -/
def Sys2Proof.Claim.SharedStores : Prop :=
  ∀ (f : FM) (s : State) (i : Issue) (m : Team) (g : Group) (l : Nat), MemReady s i m g f.ext l → f.width.toNat ≤ 4 →
    (base s i .sh f l).2 = false → InSpace (ea s i .sh f l) m.shSize (width f) →
    ∃ t m', exec (.stSh f) s = .next t ∧ OnlyRegs s t i g f 0 l ∧ t.team i.tk = some m' ∧
      (∀ k, k < width f → mget m'.sh ((ea s i .sh f l).toNat + k) = (stored s i f l).1.getD k 0) ∧
      (∀ a, ¬((ea s i .sh f l).toNat ≤ a ∧ a < (ea s i .sh f l).toNat + width f) → mget m'.sh a = mget m.sh a) ∧
      (∀ w, w % 4 = 0 → (w ∈ m'.shPoison ↔
        if (ea s i .sh f l).toNat / 4 * 4 ≤ w ∧ w < (ea s i .sh f l).toNat + width f then
          (s.src i kInt l (f.d.toNat + (w - (ea s i .sh f l).toNat) / 4)).poison = true ∨ (width f < 4 ∧ w ∈ m.shPoison)
        else w ∈ m.shPoison))

/-- Loads and stores of team shared memory (11 R184, R185, R190, R191). -/
def Obligations.SharedLoadsAndStores : Prop := Claim.SharedLoads ∧ Claim.SharedStores

/-- The shared-memory atomics (11 R192, R193, R194): the destination receives the old value and the bytes are the new value of the rule;
`cas` that does not find its compare value writes nothing. -/
def Sys2Proof.Claim.SharedAtomics : Prop :=
  ∀ p ∈ sharedAtomics, ∀ (f : FM) (s : State) (i : Issue) (m : Team) (g : Group) (l : Nat), MemReady s i m g f.ext l →
    f.width.toNat = 2 ∨ f.width.toNat = 3 → (base s i .sh f l).2 = false → InSpace (ea s i .sh f l) m.shSize (width f) →
    FitsM f i g (regsOf f) → (operand s i p.2 f l).2.2 = false → m.shMarked (ea s i .sh f l).toNat (width f) = false →
    (let at_ := (ea s i .sh f l).toNat
     let old := leNat (mgets m.sh at_ (width f))
     ∃ t m', exec (p.1 f) s = .next t ∧ OnlyRegs s t i g f (regsOf f) l ∧ t.team i.tk = some m' ∧
      (f.w = false → ∀ k, k < regsOf f → t.getR i.tk i.g l (f.d.toNat + k) = clean (wn (old / 2 ^ (32 * k)))) ∧
      (∀ a, ¬(at_ ≤ a ∧ a < at_ + width f) → mget m'.sh a = mget m.sh a) ∧
      (∀ k, k < width f → mget m'.sh (at_ + k) =
        match atomWrites p.2 (8 * width f) old (leNat (operand s i p.2 f l).1) (leNat (operand s i p.2 f l).2.1) with
        | some v => BitVec.ofNat 8 (v / 256 ^ k)
        | none => mget m.sh (at_ + k)))

/-- Global and scratchpad loads (11 R184, R190): the access leaves for the key of its address, to give its value to its destination; no
register and no byte changes yet. -/
def Sys2Proof.Claim.LoadsSent : Prop :=
  ∀ (f : FM) (s : State) (i : Issue) (m : Team) (g : Group) (l : Nat), MemReady s i m g f.ext l → f.width.toNat ≤ 4 →
    ((base s i .g f l).2 = false → InSpace (ea s i .g f l) (2 ^ 56) (width f) →
      ∀ key rec s', s.xlate (i.tk / 16) (some (laneOf i.g l)) m.ctx (ea s i .g f l).toNat .read = (.ok key rec, s') →
      ∃ t, exec (.ldG f) s = .next t ∧ OnlyRegs s t i g f 0 l ∧ Sent s t i m .g .load f l key true [] []) ∧
    ((base s i .sp f l).2 = false → InSpace (ea s i .sp f l) s.spsize (width f) →
      ∃ t, exec (.ldSp f) s = .next t ∧ OnlyRegs s t i g f 0 l ∧
        Sent s t i m .sp .load f l (spBase (i.tk / 16 / 72) + (ea s i .sp f l).toNat) true [] [])

/-- Global and scratchpad stores (11 R191): the access leaves with the bytes of its data registers, and enters at once, so that the loads
of its core see it (07 R124); no register and no byte of memory changes yet. -/
def Sys2Proof.Claim.StoresSent : Prop :=
  ∀ (f : FM) (s : State) (i : Issue) (m : Team) (g : Group) (l : Nat), MemReady s i m g f.ext l → f.width.toNat ≤ 4 →
    (stored s i f l).2 = false →
    ((base s i .g f l).2 = false → InSpace (ea s i .g f l) (2 ^ 56) (width f) →
      ∀ key rec s', s.xlate (i.tk / 16) (some (laneOf i.g l)) m.ctx (ea s i .g f l).toNat .write = (.ok key rec, s') →
      ∃ t, exec (.stG f) s = .next t ∧ OnlyRegs s t i g f 0 l ∧ Sent s t i m .g .store f l key false (stored s i f l).1 [] ∧
        ((tget? t.accs (s.nextId + 1)).map (·.entered)) = some true) ∧
    ((base s i .sp f l).2 = false → InSpace (ea s i .sp f l) s.spsize (width f) →
      ∃ t, exec (.stSp f) s = .next t ∧ OnlyRegs s t i g f 0 l ∧
        Sent s t i m .sp .store f l (spBase (i.tk / 16 / 72) + (ea s i .sp f l).toNat) false (stored s i f l).1 [] ∧
        ((tget? t.accs (s.nextId + 1)).map (·.entered)) = some true)

/-- Global and scratchpad loads and stores as they leave (11 R184, R190, R191). -/
def Obligations.LoadsAndStoresSent : Prop := Claim.LoadsSent ∧ Claim.StoresSent

/-- Global and scratchpad atomics (11 R192, R194): the access leaves with its operation and operand, to give the old value to its
destination; no register and no byte of memory changes yet. -/
def Sys2Proof.Claim.AtomicsSent : Prop :=
  ∀ (f : FM) (s : State) (i : Issue) (m : Team) (g : Group) (l : Nat), MemReady s i m g f.ext l → f.width.toNat = 2 ∨ f.width.toNat = 3 →
    (∀ p ∈ globalAtomics, (base s i .g f l).2 = false → (operand s i p.2 f l).2.2 = false → InSpace (ea s i .g f l) (2 ^ 56) (width f) →
      ∀ key rec s', s.xlate (i.tk / 16) (some (laneOf i.g l)) m.ctx (ea s i .g f l).toNat .atom = (.ok key rec, s') →
      ∃ t, exec (p.1 f) s = .next t ∧ OnlyRegs s t i g f 0 l ∧
        Sent s t i m .g (.atom p.2) f l key true (operand s i p.2 f l).1 (operand s i p.2 f l).2.1) ∧
    (∀ p ∈ scratchAtomics, (base s i .sp f l).2 = false → (operand s i p.2 f l).2.2 = false → InSpace (ea s i .sp f l) s.spsize (width f) →
      ∃ t, exec (p.1 f) s = .next t ∧ OnlyRegs s t i g f 0 l ∧
        Sent s t i m .sp (.atom p.2) f l (spBase (i.tk / 16 / 72) + (ea s i .sp f l).toNat) true
          (operand s i p.2 f l).1 (operand s i p.2 f l).2.1)

/-- Atomics of team shared memory, done at once, and of global memory and the scratchpad, as they leave (11 R192-R194). -/
def Obligations.Atomics : Prop := Claim.SharedAtomics ∧ Claim.AtomicsSent

namespace Sys2Proof.Claim

/-- The loads, stores and atomics of each space. -/
def loads : List ((FM → Instr) × Space) := [(.ldG, .g), (.ldSh, .sh), (.ldSp, .sp)]
def stores : List ((FM → Instr) × Space) := [(.stG, .g), (.stSh, .sh), (.stSp, .sp)]
def atomics : List ((FM → Instr) × Space × AtomOp) :=
  globalAtomics.map (fun p => (p.1, .g, p.2)) ++ sharedAtomics.map (fun p => (p.1, .sh, p.2)) ++ scratchAtomics.map (fun p => (p.1, .sp, p.2))
/-- 11 R184, R186, R195; 23 R352, R355: the poison cause that the address of an access meets at issue, the first in table order: what
translation finds but for the park causes, the range of the space, then alignment. -/
def BadCause (s : State) (i : Issue) (m : Team) (spc : Space) (p : Perm) (f : FM) (l c : Nat) : Prop :=
  let x := ea s i spc f l
  let within (size : Nat) (k : Nat) : Prop := (¬(0 ≤ x ∧ x < size) ∧ c = k) ∨ (0 ≤ x ∧ x < size ∧ x % width f ≠ 0 ∧ c = 15)
  match spc with
  | .g => (¬(0 ≤ x ∧ x < 2 ^ 56) ∧ c = 13) ∨ (0 ≤ x ∧ x < 2 ^ 56 ∧
      ∃ y, (s.xlate (i.tk / 16) (some (laneOf i.g l)) m.ctx x.toNat p).1 = y ∧ match y with
        | .ok _ _ => x % width f ≠ 0 ∧ c = 15
        | .protection => c = 11
        | .unmapped _ => c = 12
        | .outside => c = 13
        | .absent | .migrating => False)
  | .sh => within m.shSize 14
  | .sp => within s.spsize 14
/-- A fault record of one thread, made in this tick, with its cause, KIND and ADDR (23 R371), waits in its core. -/
def Recorded (s t : State) (i : Issue) (l c kind addr : Nat) : Prop :=
  ∃ r ∈ (tget t.sources (i.tk / 16) {}).buf, r.typ = 0 ∧ r.b0 = c + 256 * kind ∧ r.thread = 32 * i.g + l ∧ r.f24 = addr ∧ r.dt = s.dt
/-- An access that ended at issue: it is recorded, it is not under way, and no byte changes, nor any register but `n` from `d` on. -/
def Ended (s t : State) (i : Issue) (m : Team) (g : Group) (spc : Space) (f : FM) (n l c : Nat) : Prop :=
  OnlyRegs s t i g f n l ∧ (t.team i.tk).map (fun x => (x.sh, x.shPoison)) = some (m.sh, m.shPoison) ∧ (∀ x ∈ t.accs, x ∈ s.accs) ∧
    Recorded s t i l c 1 (ea s i spc f l % 2 ^ 64).toNat
/-- A thread killed at issue (23 R369): it is Exited and recorded, and nothing is accessed. -/
def Killed (s t : State) (i : Issue) (m : Team) (g : Group) (f : FM) (l c addr : Nat) : Prop :=
  (t.thread i.tk i.g l).map (·.st) = some .exited ∧ OnlyRegs s t i g f 0 l ∧
    (t.team i.tk).map (fun x => (x.sh, x.shPoison, x.failed)) = some (m.sh, m.shPoison, true) ∧ (∀ x ∈ t.accs, x ∈ s.accs) ∧
    Recorded s t i l c 3 addr

end Sys2Proof.Claim

/-- Accesses that end at issue (11 R184, R186, R190-R192, R195; 23 R355, R369, R371), in every space: a poisoned address register kills the
thread, and so does poisoned data of a store or an atomic that would be seen outside its team; an address that meets a poison cause gives
poison to the destination of a load or an atomic, discards a store, and is recorded. -/
def Obligations.BadAddresses : Prop :=
  ∀ (f : FM) (s : State) (i : Issue) (m : Team) (g : Group) (l : Nat), MemReady s i m g f.ext l →
    (∀ x spc, (f.width.toNat ≤ 4 ∧ (x, spc) ∈ loads ++ stores) ∨ ((f.width.toNat = 2 ∨ f.width.toNat = 3) ∧ ∃ op, (x, spc, op) ∈ atomics) →
      (base s i spc f l).2 = true → ∃ t, exec (x f) s = .next t ∧ Killed s t i m g f l 25 0) ∧
    (∀ x spc, spc ≠ .sh → (base s i spc f l).2 = false →
      (f.width.toNat ≤ 4 ∧ (x, spc) ∈ stores ∧ (stored s i f l).2 = true) ∨
        ((f.width.toNat = 2 ∨ f.width.toNat = 3) ∧ ∃ op, (x, spc, op) ∈ atomics ∧ (operand s i op f l).2.2 = true) →
      ∃ t, exec (x f) s = .next t ∧ Killed s t i m g f l 27 (ea s i spc f l % 2 ^ 64).toNat) ∧
    (∀ x spc c, (x, spc) ∈ loads → f.width.toNat ≤ 4 → (base s i spc f l).2 = false → FitsM f i g (regsOf f) →
      BadCause s i m spc .read f l c → ∃ t, exec (x f) s = .next t ∧ Ended s t i m g spc f (regsOf f) l c ∧
        (f.w = false → ∀ k, k < regsOf f → t.getR i.tk i.g l (f.d.toNat + k) = poisoned)) ∧
    (∀ x spc c, (x, spc) ∈ stores → f.width.toNat ≤ 4 → (base s i spc f l).2 = false → (spc = .sh ∨ (stored s i f l).2 = false) →
      BadCause s i m spc .write f l c → ∃ t, exec (x f) s = .next t ∧ Ended s t i m g spc f 0 l c) ∧
    (∀ x spc op c, (x, spc, op) ∈ atomics → f.width.toNat = 2 ∨ f.width.toNat = 3 → (base s i spc f l).2 = false →
      (spc = .sh ∨ (operand s i op f l).2.2 = false) → FitsM f i g (regsOf f) →
      BadCause s i m spc .atom f l c → ∃ t, exec (x f) s = .next t ∧ Ended s t i m g spc f (regsOf f) l c ∧
        (f.w = false → ∀ k, k < regsOf f → t.getR i.tk i.g l (f.d.toNat + k) = poisoned))

/-! Fences, barriers, counters and queues (class M). -/

/-- Fences (11 R198; 07 R132, R135) of a thread with nothing before them: the fence is over at once, and where it acquires at scope 3 or
above its core's L1 keeps no word that it does not own. `vfence` holds the group (11 R199). -/
def Obligations.Fences : Prop :=
  ∀ (f : FR) (s : State) (i : Issue) (m : Team) (g : Group) (l : Nat), MemReady s i m g f.ext l →
    (∃ t, exec (.fence f) s = .next t ∧ t.teams = s.teams ∧ (∀ k, tget? t.accs k = none ∨ k < s.nextId) ∧
      (∀ a, mget t.mem a = mget s.mem a) ∧
      (f.b.toNat / 8 = 2 ∨ f.b.toNat % 8 < 3 → t.cores = s.cores) ∧
      (f.b.toNat / 8 ≠ 2 → 3 ≤ f.b.toNat % 8 → ∀ line x, tget? (t.core (i.tk / 16)).l1 line = some x → ∀ w ∈ x.valid, w ∈ x.owned)) ∧
    (∃ t, exec (.vfence f) s = .next t ∧ OnlyGroup s t i m ∧ t.group i.tk i.g = some { g with vfence := true })

/-- `bar.set` (11 R202; 01 R39): the barrier counts the roles of the operand and expects their threads that are not Exited. -/
def Sys2Proof.Claim.BarrierSet : Prop :=
  ∀ (f : FR) (s : State) (i : Issue) (m : Team) (g : Group) (l : Nat), MemReady s i m g f.ext l →
    (let n := f.d.toNat
     let x := s.src i kInt l f.a.toNat
     let roles := x.val.toNat % 16
     x.poison = false → (m.bar n).a = 0 → roles < 2 ^ m.card.roles.length →
      ∃ t, exec (.barSet f) s = .next t ∧ { t with teams := s.teams, issues := s.issues } = s ∧
        (∀ k, k ≠ i.tk → t.team k = s.team k) ∧
        t.team i.tk = some { m with bars := tset m.bars n { m.bar n with
          roles := roles
          e := ((m.groups.filter fun x => roles.testBit x.2.role).map fun x => (x.2.th.filter fun e => e.2.st ≠ .exited).length).sum } })

/-- Arrivals at a team barrier (11 R203, R204; 01 R40): the arrival is counted, and the last one of the phase flips PHASE, clears the
count and lets the expected number fall by the threads that have left; under `bar.sync` the thread waits for that phase. -/
def Sys2Proof.Claim.BarrierArrivals : Prop :=
  ∀ (f : FR) (s : State) (i : Issue) (m : Team) (g : Group) (l : Nat), MemReady s i m g f.ext l →
    (let n := f.d.toNat
     let b := m.bar n
     b.roles.testBit g.role = true → 32 * i.g + l ∉ b.arrived →
     (let after (t : State) : Prop := (∀ a, mget t.mem a = mget s.mem a) ∧ (∀ k c, t.getR i.tk i.g k c = s.getR i.tk i.g k c) ∧
        ∃ m', t.team i.tk = some m' ∧ if b.a + 1 = b.e
          then (m'.bar n).phase = !b.phase ∧ (m'.bar n).a = 0 ∧ (m'.bar n).arrived = [] ∧ (m'.bar n).e = b.e - b.pend ∧ (m'.bar n).pend = 0
          else (m'.bar n).phase = b.phase ∧ (m'.bar n).a = b.a + 1 ∧ (m'.bar n).arrived = sadd b.arrived (32 * i.g + l) ∧
            (m'.bar n).e = b.e
      let waits (t : State) (w : List WaitOn) : Prop := ∃ i', t.cur = some i' ∧ tget i'.waits l [] = tget i.waits l [] ++ w
      (∃ t, exec (.barArr f) s = .next t ∧ after t ∧ waits t []) ∧
      (∃ t, exec (.barSync f) s = .next t ∧ after t ∧ waits t [.bar n b.phase])))

/-- Team barriers (11 R202-R204; 01 R39, R40): set, and arrived at. -/
def Obligations.TeamBarriers : Prop := Claim.BarrierSet ∧ Claim.BarrierArrivals

/-- Transaction barriers (11 R207, R218): `tb.expect` raises the pending count, `tb.arrive` lowers it and completes the phase at 0, and a
count that would pass 2^24 − 1 or fall below 0 changes nothing of the barrier. `tb.wait` waits while PHASE is the parity. -/
def Obligations.TransactionBarriers : Prop :=
  ∀ (f : FR) (s : State) (i : Issue) (m : Team) (g : Group) (l : Nat), MemReady s i m g f.ext l → f.d.toNat < m.tbn →
    (let k := f.d.toNat
     let x := s.src i kInt l f.a.toNat
     let b := tget m.tbs k {}
     x.poison = false →
      (b.pend + x.val.toNat < 2 ^ 24 → ∃ t, exec (.tbExpect f) s = .next t ∧ { t with teams := s.teams, issues := s.issues } = s ∧
        t.team i.tk = some { m with tbs := tset m.tbs k { b with pend := b.pend + x.val.toNat } }) ∧
      (x.val.toNat < b.pend → ∃ t, exec (.tbArrive f) s = .next t ∧ { t with teams := s.teams, issues := s.issues } = s ∧
        t.team i.tk = some { m with tbs := tset m.tbs k { b with pend := b.pend - x.val.toNat } }) ∧
      (x.val.toNat = b.pend → ∃ t m', exec (.tbArrive f) s = .next t ∧ (∀ a, mget t.mem a = mget s.mem a) ∧ t.team i.tk = some m' ∧
        tget? m'.tbs k = some { pend := 0, phase := !b.phase, regions := [], overfull := false }) ∧
      (2 ^ 24 ≤ b.pend + x.val.toNat → ∃ t, exec (.tbExpect f) s = .next t ∧ (t.team i.tk).map (·.tbs) = some m.tbs) ∧
      (b.pend < x.val.toNat → ∃ t, exec (.tbArrive f) s = .next t ∧ (t.team i.tk).map (·.tbs) = some m.tbs) ∧
      (∃ t i', exec (.tbWait f) s = .next t ∧ { t with issues := s.issues } = s ∧ t.cur = some i' ∧
        tget i'.waits l [] = tget i.waits l [] ++ if b.phase = x.val.getLsbD 0 then [.tb k (x.val.getLsbD 0)] else []))

/-- `cc.wait` (11 R210): a thread whose counter has reached its target goes on, and one whose counter has not waits. -/
def Obligations.CounterWait : Prop :=
  ∀ (f : FR) (s : State) (i : Issue) (m : Team) (g : Group) (l : Nat), MemReady s i m g f.ext l → g.parks = [] → (g.thread l).live = true →
    (s.pair i l f.a.toNat).poison = false → (s.pair i l f.b.toNat).poison = false →
    (let va := (s.pair i l f.a.toNat).val.toNat
     let target := (s.pair i l f.b.toNat).val
     ∀ v s', s.ccRead (i.tk / 16) (laneOf i.g l) m.ctx va = (.value v, s') →
      ∃ t i', exec (.ccWait f) s = .next t ∧ t.teams = s.teams ∧ (∀ a, mget t.mem a = mget s.mem a) ∧ t.cur = some i' ∧
        tget i'.waits l [] = tget i.waits l [] ++ if target.toNat ≤ v then [] else [.cc va target (immOf f.ext % 8)])

/-- `qpush` (11 R211, R213) of a thread with nothing before it: the word stands at the end of the queue. -/
def Sys2Proof.Claim.QueuePush : Prop :=
  ∀ (f : FR) (s : State) (i : Issue) (m : Team) (g : Group) (l : Nat), MemReady s i m g f.ext l →
    (let q := f.d.toNat
     let x := s.src i kInt l f.a.toNat
     (x.poison = false ∨ 6 ≤ q) →
      ∃ t, exec (.qpush f) s = .next t ∧ (∀ a, mget t.mem a = mget s.mem a) ∧ (∀ k, k ≠ i.tk → t.team k = s.team k) ∧
        t.team i.tk = some { m with q := tset m.q q (tget m.q q [] ++ [x]) })

/-- A queue register read as a source pops the oldest entry of its queue (05 R94). -/
def Sys2Proof.Claim.QueuePop : Prop :=
  ∀ (s : State) (i : Issue) (m : Team) (konst : Nat → Word) (t q : Nat) (x : PWord) (r : List PWord),
    q < 8 → s.team i.tk = some m → tget m.q q [] = x :: r →
      (s.operand i konst t (132 + q)).1 = x ∧ (s.operand i konst t (132 + q)).2.team i.tk = some { m with q := tset m.q q r } ∧
      { (s.operand i konst t (132 + q)).2 with teams := s.teams } = s

/-- Team queues (11 R212-R216): entries pushed and popped. -/
def Obligations.TeamQueues : Prop := Claim.QueuePush ∧ Claim.QueuePop

/-- Source codes (05 R91): v and s registers, bypass latches, zero, lane, group and limb indices, and constants. -/
def Obligations.SourceCodes : Prop :=
  ∀ (s : State) (i : Issue) (m : Team) (g : Group) (konst : Nat → Word) (t : Nat), s.team i.tk = some m → tget? m.groups i.g = some g →
    (∀ n, n < 64 → s.src i konst t n = tget (g.thread t).v (((g.thread t).wb + n) % g.ba) (clean 0)) ∧
    (∀ n, n < 64 → s.src i konst t (64 + n) = tget g.s n (clean 0)) ∧
    (∀ n, n < 4 → i.header.cls ≠ .U → s.src i konst t (128 + n) = ((tget i.lat t []).getD n none).getD (clean 0)) ∧
    s.src i konst t 140 = clean 0 ∧ s.src i konst t 141 = clean (wn t) ∧ s.src i konst t 142 = clean (wn i.g) ∧
    s.src i konst t 143 = clean (wn (match g.limbs with | some l => if l = 0 then 0 else t % l | none => 0)) ∧
    (∀ c, 192 ≤ c → s.src i konst t c = clean (konst c))

/-! The tile store, fragments and the matrix step (class T). -/

namespace Sys2Proof.Claim

/-- Some threads take a word, the lowest being `l`. -/
structure Takes (s : State) (i : Issue) (m : Team) (g : Group) (e : Option Ext) (l : Nat) (r : List Nat) : Prop where
  issuing : Issuing s i m g
  clean : CleanPred i g e
  takers : takers i g e = l :: r
/-- What a tile word leaves as it was: memory, every other team, and the registers of its own. -/
def TileFrame (s t : State) (i : Issue) : Prop :=
  (∀ a, mget t.mem a = mget s.mem a) ∧ (∀ k, k ≠ i.tk → t.team k = s.team k) ∧ ∀ k c, t.getR i.tk i.g k c = s.getR i.tk i.g k c
/-- The other ranges of the team are as they were. -/
def OtherRanges (m m' : Team) (k : Nat) : Prop := ∀ n, n ≠ k → tget? m'.ranges n = tget? m.ranges n

end Sys2Proof.Claim

/-- Reservation, release and record of a tile-store range (15 R250, R251, R253) with no request queued before: a range of the granules
asked for where they are free, none after a release, and the record's word with every row and column stale. -/
def Obligations.TileRanges : Prop :=
  ∀ (f : FR) (s : State) (i : Issue) (m : Team) (g : Group) (l : Nat) (r : List Nat), Takes s i m g f.ext l r →
    (let k := f.d.toNat
     let x := s.src i kInt l f.a.toNat
     let range := tget m.ranges k {}
     (s.core (i.tk / 16)).rsv = [] →
      (x.poison = false → 1 ≤ x.val.toNat → x.val.toNat ≤ 4096 → range.gran = 0 → x.val.toNat ≤ s.freeGranules (i.tk / 16) →
        (∃ t' ∈ l :: r, (g.thread t').st ≠ .exited) →
        ∃ t m', exec (.tsRsv f) s = .next t ∧ TileFrame s t i ∧ t.team i.tk = some m' ∧ OtherRanges m m' k ∧
          tget? m'.ranges k = some { gran := x.val.toNat } ∧ (t.core (i.tk / 16)).rsv = []) ∧
      (range.gran ≠ 0 → s.rangeBusy i.tk k = false →
        ∃ t m', exec (.tsRel f) s = .next t ∧ TileFrame s t i ∧ t.team i.tk = some m' ∧ OtherRanges m m' k ∧ tget? m'.ranges k = none) ∧
      (let d := s.pair i l f.a.toNat
       d.poison = false → range.gran ≠ 0 → recordRefused d.val range.gran = false →
        ∃ t m' r', exec (.tsRec f) s = .next t ∧ TileFrame s t i ∧ t.team i.tk = some m' ∧ OtherRanges m m' k ∧
          tget? m'.ranges k = some r' ∧ r'.record = some d.val ∧ r'.bytes = range.bytes ∧ r'.gran = range.gran ∧
          (∀ n, n < (tileRec d.val).rows → (tget? r'.side.rows n).map (·.stale) = some true) ∧
          (∀ n, n < (tileRec d.val).cols → (tget? r'.side.cols n).map (·.stale) = some true)))

/-- Words of a range written and read (15 R262): the four bytes at the offset; an offset outside the range reads as poison. -/
def Obligations.TileWords : Prop :=
  ∀ (f : FR) (s : State) (i : Issue) (m : Team) (g : Group) (l : Nat), Takes s i m g f.ext l [] →
    (let x := s.src i kInt l f.a.toNat
     let off := x.val.toNat
     x.poison = false →
      (let k := f.d.toNat
       let range := tget m.ranges k {}
       let y := s.src i kInt l f.b.toNat
       off % 4 = 0 → off < 512 * range.gran →
        ∃ t m' r', exec (.tsWr f) s = .next t ∧ TileFrame s t i ∧ t.team i.tk = some m' ∧ OtherRanges m m' k ∧
          tget? m'.ranges k = some r' ∧ r'.gran = range.gran ∧ r'.record = range.record ∧
          (∀ j, j < 4 → mget r'.bytes (off + j) = BitVec.ofNat 8 (y.val.toNat / 256 ^ j)) ∧
          (∀ a, ¬(off ≤ a ∧ a < off + 4) → mget r'.bytes a = mget range.bytes a)) ∧
      (let range := tget m.ranges f.b.toNat {}
       Fits .L f g 1 → f.w = false →
        ∃ t, exec (.tsRd f) s = .next t ∧ (∀ a, mget t.mem a = mget s.mem a) ∧ (∀ k, k ≠ i.tk → t.team k = s.team k) ∧
          t.getR i.tk i.g l f.d.toNat =
            if off % 4 = 0 ∧ off < 512 * range.gran ∧ range.marked off 4 = false then clean (wn (leNat (mgets range.bytes off 4)))
            else poisoned))

namespace Sys2Proof.Claim

/-- 15 R253: the code of the element at a linear index of a range, and whether a half-byte of it is poisoned. -/
def elemCode (r : Range) (w n : Nat) : Nat := leNat (mgets r.bytes (n * w / 8) ((w + 7) / 8)) / 2 ^ (n * w % 8) % 2 ^ w
def elemBad (r : Range) (w n : Nat) : Bool := r.poison.any fun h => decide (n * w ≤ 4 * h ∧ 4 * h < n * w + w)
/-- 15 R253: the block of a column, and where the scale of a block stands. -/
def blockOf (c : TileRec) (j : Nat) : Nat := if c.sc then min (j / c.len) (c.blocks - 1) else 0
def scaleAt (c : TileRec) (i b : Nat) : Nat := c.soff + i * c.blocks + b
/-- The value of an element times its scale, 1 where the tile has none; none where it is poison (03 R56, R57). -/
def elemValue (r : Range) (c : TileRec) (x : Nat × Nat) : Option Machine.Num :=
  let w := c.g.width
  let n := x.1 * c.cols + x.2
  let q := n / 4 * 4
  let bare := if c.g = .k4x then
      if (List.range 4).any fun k => elemBad r w (q + k) then none
      else (k4xQuad (((List.range 4).map fun k => elemCode r w (q + k) * 16 ^ k).sum)).bind (·[n % 4]?)
    else if elemBad r w n then none else some (val c.g (elemCode r w n))
  let at_ := scaleAt c x.1 (blockOf c x.2)
  let scale := if !c.sc then some (.fin false 1 0 false)
    else if elemBad r 8 at_ then none else some (val .e8m0 (elemCode r 8 at_))
  match bare, scale with | some v, some s => some (v.mul s) | _, _ => none
/-- 03 R56: in a well-formed quad, an element that is the outlier, and one that is given up to it. -/
def outlier (r : Range) (n : Nat) : Bool := elemCode r 4 n = 8 && (n % 4 = 0 || n % 4 = 3)
def givenUp (r : Range) (n : Nat) : Bool := (n % 4 = 1 || n % 4 = 2) && (elemCode r 4 (n / 4 * 4) = 8 || elemCode r 4 (n / 4 * 4 + 3) = 8)
/-- 03 R74: a sum of terms in their order, from +0, rounded at each step. -/
def rounding (l : List Machine.Num) : Word :=
  l.foldl (fun a x => wn (rnd (Machine.Num.add false (val .f32 a.toNat) x) .f32 0 false 0).code) 0
/-- 03 R73, R74: the components of a row or column, of its cells and of the blocks that meet it. -/
def Sums (r : Range) (c : TileRec) (cells blocks : List (Nat × Nat)) (y : Comp) : Prop :=
  let code (x : Nat × Nat) : Nat := elemCode r c.g.width (x.1 * c.cols + x.2)
  let scales : Word := BitVec.ofNat 32 (blocks.map fun b => elemCode r 8 (scaleAt c b.1 b.2)).sum
  let floats (l : List (Nat × Nat)) : Prop :=
    let vs := l.filterMap (elemValue r c)
    y.fp = rounding vs ∧ y.mag = rounding (vs.map Machine.Num.abs)
  if cells.any fun x => (elemValue r c x).isNone then y.poison = true else
  y.poison = false ∧ match c.g with
    | .int8 | .int32 | .uint32 => y.exact = BitVec.ofInt 32 (cells.map fun x => sext (code x) c.g.width).sum
    | .k4x => y.exact = BitVec.ofInt 32 (cells.map fun x =>
          let n := x.1 * c.cols + x.2
          if outlier r n || givenUp r n then 0 else sext (code x) 4).sum ∧
        y.scale = (if c.sc then scales else 0) ∧ floats (cells.filter fun x => outlier r (x.1 * c.cols + x.2))
    | _ => (c.sc = true → y.exact = scales) ∧ floats cells
/-- The cells of a row and of a column, and the blocks that meet them. -/
def rowCells (c : TileRec) (i : Nat) : List (Nat × Nat) := (List.range c.cols).map fun j => (i, j)
def colCells (c : TileRec) (j : Nat) : List (Nat × Nat) := (List.range c.rows).map fun i => (i, j)
def rowBlocks (c : TileRec) (i : Nat) : List (Nat × Nat) := (List.range (if c.sc then c.blocks else 1)).map fun b => (i, b)
def colBlocks (c : TileRec) (j : Nat) : List (Nat × Nat) := (List.range c.rows).map fun i => (i, blockOf c j)
/-- A range whose record is one that `ts.rec` admits (15 R254), and whose bytes are in the one form of a memory. -/
def WellKept (r : Range) (d : Dword) : Prop := recordRefused d r.gran = false ∧ Memory.wf r.bytes = true
/-- 15 R257: what a re-sum leaves: the data; the components of a stale row or column out of them, fresh; the others, of which an ill-formed
quad may poison some (03 R57). -/
def Resummed (r r' : Range) (c : TileRec) : Prop :=
  let each (old new : Tbl Comp) (n : Nat) (cells blocks : List (Nat × Nat)) : Prop := ∀ y, tget? old n = some y → ∃ y', tget? new n = some y' ∧
    if y.stale then y'.stale = false ∧ Sums r c cells blocks y' else { y' with poison := y.poison } = y ∧ (y.poison = true → y'.poison = true)
  { r' with side := r.side } = r ∧ (∀ i, i < c.rows → each r.side.rows r'.side.rows i (rowCells c i) (rowBlocks c i)) ∧
    ∀ j, j < c.cols → each r.side.cols r'.side.cols j (colCells c j) (colBlocks c j)
/-- 15 R258-R260: what a check of a whole tile of integers leaves, whose rows and columns are all fresh and none of whose elements is
poisoned: the range as it is, where every sum agrees; one element corrected, where one row and one column are off by one difference and the
element takes it; else the elements of the rows and columns that are off, poisoned. -/
def Checked (r r' : Range) (c : TileRec) : Prop :=
  let w := c.g.width
  let off (t : Tbl Comp) (n : Nat) (cells : List (Nat × Nat)) : Word := (tget t n {}).exact -
    BitVec.ofInt 32 (cells.map fun x => sext (elemCode r w (x.1 * c.cols + x.2)) w).sum
  let dr (i : Nat) : Word := off r.side.rows i (rowCells c i)
  let dc (j : Nat) : Word := off r.side.cols j (colCells c j)
  let clean_ (t : Tbl Comp) (n : Nat) : Prop := ∃ y, tget? t n = some y ∧ y.stale = false ∧ y.poison = false
  let single (i j : Nat) : Prop := i < c.rows ∧ j < c.cols ∧ dr i ≠ 0 ∧ dc j = dr i ∧ (∀ n, n < c.rows → n ≠ i → dr n = 0) ∧
    (∀ n, n < c.cols → n ≠ j → dc n = 0) ∧
    (c.g = .int8 → -128 ≤ sext (elemCode r 8 (i * c.cols + j)) 8 + (dr i).toInt ∧ sext (elemCode r 8 (i * c.cols + j)) 8 + (dr i).toInt ≤ 127)
  (c.g = .int8 ∨ c.g = .int32 ∨ c.g = .uint32) → c.sc = false → r.side.anyStale = false →
  (∀ i, i < c.rows → clean_ r.side.rows i) → (∀ j, j < c.cols → clean_ r.side.cols j) → (∀ n, n < c.rows * c.cols → elemBad r w n = false) →
    ((∀ i, i < c.rows → dr i = 0) → (∀ j, j < c.cols → dc j = 0) → r' = r) ∧
    (∀ i j, single i j → { r' with bytes := r.bytes } = r ∧
      ∀ n, n < c.rows * c.cols → elemCode r' w n =
        if n = i * c.cols + j then (elemCode r w n + (dr i).toNat) % 2 ^ w else elemCode r w n) ∧
    ((∃ n, (n < c.rows ∧ dr n ≠ 0) ∨ (n < c.cols ∧ dc n ≠ 0)) → (∀ i j, ¬ single i j) → r'.bytes = r.bytes ∧
      ∀ i j, i < c.rows → j < c.cols → (elemBad r' w (i * c.cols + j) = true ↔ dr i ≠ 0 ∨ dc j ≠ 0))

end Sys2Proof.Claim

/-- Re-sums, checks and components of a range with a record (03 R56, R57, R73, R74; 15 R253, R257-R261): the range that the model's re-sum
and matrix read leave; of a re-sum, the components of each stale row and column out of the elements and the scales; of a check of integers,
what agreement, a single difference and any other disagreement leave. -/
def Obligations.TileChecks : Prop :=
  (∀ (f : FR) (s : State) (i : Issue) (m : Team) (g : Group) (l : Nat) (r : List Nat), Takes s i m g f.ext l r →
    ∀ d, (tget m.ranges f.d.toNat {}).record = some d →
      (∃ t m', exec (.tsSync f) s = .next t ∧ TileFrame s t i ∧ t.team i.tk = some m' ∧ OtherRanges m m' f.d.toNat ∧
        tget? m'.ranges f.d.toNat = some ((tget m.ranges f.d.toNat {}).resum (tileRec d)) ∧
        (WellKept (tget m.ranges f.d.toNat {}) d →
          Resummed (tget m.ranges f.d.toNat {}) (tget m'.ranges f.d.toNat {}) (tileRec d))) ∧
      (∃ t m', exec (.tsCk f) s = .next t ∧ TileFrame s t i ∧ t.team i.tk = some m' ∧ OtherRanges m m' f.d.toNat ∧
        tget? m'.ranges f.d.toNat = some ((tget m.ranges f.d.toNat {}).matrixRead (tileRec d)
          (List.range (tileRec d).rows) (List.range (tileRec d).cols)).1 ∧
        (WellKept (tget m.ranges f.d.toNat {}) d →
          Checked (tget m.ranges f.d.toNat {}) (tget m'.ranges f.d.toNat {}) (tileRec d)))) ∧
  ∀ f : FR, RegEffect (.tsCks f) f 1 (fun s i _ _ t =>
    let range := s.range i.tk f.b.toNat
    let x := s.src i kInt t f.a.toNat
    [match range.record with
     | none => poisoned
     | some d =>
       let y := if x.val.getLsbD 7 then tget range.side.cols (x.val.toNat % 128) {} else tget range.side.rows (x.val.toNat % 128) {}
       if x.poison then poisoned
       else if (if x.val.getLsbD 7 then (tileRec d).cols else (tileRec d).rows) ≤ x.val.toNat % 128 then clean 0
       else if y.stale || y.poison then poisoned
       else clean (match x.val.toNat / 256 % 4 with | 0 => y.exact | 1 => y.fp | 2 => y.mag | _ => y.scale)])

/-- Fragments and gangs (15 R263-R267; 03 R73), for a candidate that holds every live thread: the registers that hold the quarter loaded, as
the matrix read leaves the range, and its scales; the sidecar of the quarter loaded or summed, fresh and at its registers, with the sums of a
quarter free of poison; its place in the gang; and the gang word with the step number 0. -/
def Obligations.FragmentsAndGangs : Prop :=
  ∀ (f : FR) (s : State) (i : Issue) (m : Team) (g : Group) (l : Nat) (r : List Nat), Takes s i m g f.ext l r →
    (∀ e ∈ g.th, e.2.live = true → e.1 ∈ i.cand) →
    (let x := s.src i kInt l f.a.toNat
     let base := (g.thread l).wb + f.d.toNat
     (∀ d, (tget m.ranges f.b.toNat {}).record = some d → x.poison = false → (tileRec d).rows = 64 → (tileRec d).cols ∈ [8, 32, 64, 128] →
       (tileRec d).cols ≤ fmtKs (tileRec d).fmt → f.d.toNat + fragRegs (tileRec d).fmt (tileRec d).cols (tileRec d).sc ≤ min 64 g.ba →
        ∃ t g' fr, exec (.fragLd f) s = .next t ∧ (∀ a, mget t.mem a = mget s.mem a) ∧ (∀ k, k ≠ i.tk → t.team k = s.team k) ∧
          t.group i.tk i.g = some g' ∧ tget? g'.fs (immOf f.ext % 2) = some fr ∧ fr.st = .fresh ∧ fr.base = base ∧
          fr.fmt = (tileRec d).fmt ∧ fr.sc = (tileRec d).sc ∧ fr.ks = (tileRec d).cols ∧ fr.quarter = x.val.toNat % 4 ∧
          ((∀ j, j < 32 → (tget? g.th j).isSome = true) → WellKept (tget m.ranges f.b.toNat {}) d →
            (let c := tileRec d
             let q := x.val.toNat % 4
             let range := t.range i.tk f.b.toNat
             let bytes := 16 * c.cols * c.g.width / 8
             let scales := 16 * c.blocks
             let regs := (bytes + 127) / 128
             let holds (n off : Nat) : Prop := tget (g'.thread (n % 32)).v ((base + n / 32) % g.ba) (clean 0) =
               pw (wn (leNat (mgets range.bytes off 4))) (range.marked off 4)
             (∀ n, 4 * n < bytes → holds n (bytes * q + 4 * n)) ∧
             (c.sc = true → ∀ n, 4 * n < scales → holds (32 * regs + n) (c.soff + scales * q + 4 * n)) ∧
             (range.poison = [] → ∀ k, k < 16 → ∃ y, tget? fr.side.rows k = some y ∧ y.stale = false ∧
               Sums range c (rowCells c (16 * q + k)) (rowBlocks c (16 * q + k)) y)))) ∧
     (∃ t g' fr, exec (.fragCks f) s = .next t ∧ OnlyGroup s t i m ∧ t.group i.tk i.g = some g' ∧ { g' with fs := g.fs } = g ∧
        tget? g'.fs (immOf f.ext % 2) = some fr ∧ fr.st = .fresh ∧ fr.base = base ∧ fr.fmt = immOf f.ext / 32 % 16 ∧
        fr.sc = (immOf f.ext).testBit 4 ∧ fr.ks = [8, 32, 64, 128].getD (immOf f.ext / 2 ^ 9 % 4) 0 ∧
        (let more := g.gang.toNat / 2 ^ 16 % 4
         let at_ (p : Nat) : Nat := g.gang.toNat / 2 ^ (4 * p) % 16
         (more = 0 → fr.quarter = immOf f.ext % 2) ∧
         ∀ p, more ≠ 0 → p ≤ more → at_ p = i.g → (∀ n, n < p → at_ n ≠ i.g) → fr.quarter = p + (more + 1) * (immOf f.ext % 2)) ∧ (∀ n, n ≠ immOf f.ext % 2 → tget? g'.fs n = tget? g.fs n)) ∧
     (x.poison = false → ∃ t, exec (.gangSet f) s = .next t ∧ OnlyGroup s t i m ∧
        t.group i.tk i.g = some { g with gang := x.val, gseq := 0 }))

/-- The rendezvous (15 R268): a matrix word whose gang is not complete puts a deposit into the latch and stands; one whose joint step has
started is past it, with the number of the next step. That the word deposits, and is put back before its clause until the step has started, is
the model's choice (log 32). -/
def Obligations.Rendezvous : Prop :=
  ∀ (z : Bool) (f : FR) (s : State) (i : Issue) (m : Team) (g : Group) (l : Nat) (r : List Nat), Takes s i m g f.ext l r →
    (let word : Instr := if z then .mmaZ f else .mma f
     let x := s.src i kInt l f.a.toNat
     let latch (t : State) (seq : Nat) : List Deposit :=
       (t.core (i.tk / 16)).latch.filter fun d => d.tk = i.tk ∧ d.g = i.g ∧ d.seq = seq
     x.poison = false →
      (latch s g.gseq = [] → (∃ n ∈ m.gangOf i.g, n ≠ i.g ∧ m.gone n = false ∧ s.deposit i.tk n g.gseq = none) →
        ∃ t d i', exec word s = .next t ∧ t.teams = s.teams ∧ (∀ a, mget t.mem a = mget s.mem a) ∧ latch t g.gseq = [d] ∧
          d.ready = true ∧ d.started = false ∧ d.z = z ∧ d.vb = f.d.toNat ∧ d.step = x.val.toNat ∧ d.k = f.b.toNat ∧ d.cand = l :: r ∧
          t.cur = some i' ∧ i'.words = encode word ++ i.words) ∧
      (∀ d, s.deposit i.tk i.g g.gseq = some d → d.started = true →
        ∃ t, exec word s = .next t ∧ (∀ a, mget t.mem a = mget s.mem a) ∧ latch t g.gseq = [] ∧
          t.group i.tk i.g = some { g with gseq := (g.gseq + 1) % 2 ^ 16 }))

/-- The joint step (15 R268, R269, R271): once every listed group stands at its word with a deposit, MMA_STEP_START starts the deposits,
and, where the step raises no trap, the staging accumulator of each group holds Ks columns more, Ks being the step length of the
fragments; while a deposit has not reached its word, or has been started, nothing happens. That a listed group which has left since its deposit
counts as arrived (log 32), and that a start that is not due leaves all as it is (log 18), are the model's choices. -/
def Obligations.JointStep : Prop :=
  ∀ (s : State) (tk g seq : Nat) (m : Team), s.team tk = some m → (m.gangOf g).Nodup →
    (let ks := (tget (m.group ((m.gangOf g).headD 0)).fs 0 {}).ks
     ((∀ x ∈ m.gangOf g, (∃ d, s.deposit tk x seq = some d ∧ (d.ready = true ∨ m.gone x = true) ∧ d.started = false) ∨
         (s.deposit tk x seq = none ∧ tget? m.groups x = none ∧ x ≠ g)) →
      ∃ t, exec (.mmaStepStart tk g seq) s = .next t ∧ (∀ a, mget t.mem a = mget s.mem a) ∧ (∀ k, k ≠ tk → t.team k = s.team k) ∧
        (∀ x ∈ m.gangOf g, ∀ d, s.deposit tk x seq = some d → (t.deposit tk x seq).map (·.started) = some true) ∧
        (s.verdict tk g seq = none → ∀ x ∈ m.gangOf g, ∀ d gr, s.deposit tk x seq = some d → tget? m.groups x = some gr →
          ∃ gr', t.group tk x = some gr' ∧ gr'.staging.kpos = (if d.z then 0 else gr.staging.kpos) + ks ∧ gr'.staging.run.isSome = true)) ∧
     ((∃ x ∈ m.gangOf g, ∃ d, s.deposit tk x seq = some d ∧ ((d.ready = false ∧ m.gone x = false) ∨ d.started = true)) →
      exec (.mmaStepStart tk g seq) s = .next s))

/-- Commits and closes as they leave the core (15 R275, R276): the staging accumulator, whole, goes to the tile and is empty after it; a
close goes with E and TOL. -/
def Obligations.CommitsSent : Prop :=
  ∀ (f : FR) (s : State) (i : Issue) (m : Team) (g : Group) (l : Nat), MemReady s i m g f.ext l →
    (let a := s.pair i l f.a.toNat
     let b := s.src i kInt l f.b.toNat
     let unit := match g.staging.run with | some r => if r.la = 0 ∧ r.lb = 0 then 32 else max r.la r.lb | none => 32
     let there (k : AKind) : Prop := ∃ c s', s.classifyTile
       { src := i.tk / 16, kind := k, tk := i.tk, g := i.g, lanes := [l], ctx := m.ctx } a.val.toNat = (0, 0, c, s')
     let sent (t : State) (k : AKind) : Prop := ∃ acc, tget? t.accs (s.nextId + 1) = some acc ∧ acc.kind = k ∧ acc.lanes = [l] ∧
       acc.va = a.val.toNat ∧ acc.stage = .core ∧ acc.pages.length = 4
     a.poison = false → a.val.toNat < 2 ^ 56 →
      (g.staging.kpos % unit = 0 →
        ((∀ k, there k) → ∃ t g', exec (.commit f) s = .next t ∧ sent t (.commit { st := g.staging, index := none }) ∧
          t.group i.tk i.g = some g' ∧ g'.staging = {} ∧ (∀ a, mget t.mem a = mget s.mem a)) ∧
        (b.poison = false → (∀ k, there k) → ∃ t g', exec (.commitOrd f) s = .next t ∧
          sent t (.commit { st := g.staging, index := some (b.val.toNat % 2 ^ 16) }) ∧
          t.group i.tk i.g = some g' ∧ g'.staging = {} ∧ (∀ a, mget t.mem a = mget s.mem a))) ∧
      (b.poison = false → (∀ k, there k) → ∃ t, exec (.accClose f) s = .next t ∧
        sent t (.close (b.val.toNat % 2 ^ 16) (immOf f.ext % 32)) ∧ (∀ a, mget t.mem a = mget s.mem a)))

/-! Long integers (class C). -/

namespace Sys2Proof.Claim

/-- 17 R282: the threads of integer `n` of a group bound to `l` limbs, the lowest limb first. -/
def lanesOf (l n : Nat) : List Nat := (List.range l).map (l * n + ·)
/-- Whole integers take a word of class C in a bound group: those of `ns`. -/
structure Bound (s : State) (i : Issue) (m : Team) (g : Group) (e : Option Ext) (l : Nat) (ns : List Nat) : Prop where
  issuing : Issuing s i m g
  clean : CleanPred i g e
  limbs : g.limbs = some l
  count : l ∈ [2, 4, 8, 16, 32]
  rising : ns.Pairwise (· < ·)
  ints : ∀ n ∈ ns, n < 32 / l
  takers : takers i g e = ns.flatMap (lanesOf l)
/-- 17 R285: is a source code read in each thread? -/
def eachThread (c : Nat) : Bool := c < 64 || (128 ≤ c && c < 132) || c = 141 || c = 143
/-- 17 R285: an integer operand. -/
def intOf (s : State) (i : Issue) (l n c : Nat) : Nat :=
  if eachThread c then ((List.range l).map fun k => (s.src i kInt (l * n + k) c).val.toNat * 2 ^ (32 * k)).sum
  else if 192 ≤ c then (((c : Int) - 224) % 2 ^ (32 * l)).toNat
  else (s.src i kInt (l * n) c).val.toNat
/-- 17 R293: is a limb of an integer operand poisoned? -/
def intBad (s : State) (i : Issue) (l n c : Nat) : Bool :=
  if eachThread c then (lanesOf l n).any fun t => (s.src i kInt t c).poison
  else if 192 ≤ c then false else (s.src i kInt (l * n) c).poison
/-- 17 R283: CF and CW of an integer. -/
def carry (g : Group) (n : Nat) : PBool := tget g.cf n { val := false, poison := false }
def carryW (g : Group) (n : Nat) : PWord := tget g.cw n (clean 0)

/-- What a chained operation does (17 R288-R293): every limb of D of each integer that takes it holds its part of the result, CF and CW
are as the operation says, and everything else is as it was. -/
def ChainEffect (x : Instr) (f : FR) (op : State → Issue → Group → Nat → Nat → Chained) : Prop :=
  ∀ s i m g l ns, Bound s i m g f.ext l ns → f.d.toNat < 64 → f.d.toNat < g.ba →
    ∃ t g', exec x s = .next t ∧ OnlyGroup s t i m ∧ t.group i.tk i.g = some g' ∧
      { g' with th := g.th, fs := g.fs, cf := g.cf, cw := g.cw } = g ∧
      (∀ j, ∃ v, tget? g'.th j = (tget? g.th j).map fun th => { th with v := v }) ∧
      (∀ j c, Named g c → ¬(f.w = false ∧ c = f.d.toNat ∧ j ∈ takers i g f.ext) → t.getR i.tk i.g j c = s.getR i.tk i.g j c) ∧
      (f.w = false → ∀ n ∈ ns, ∀ k, k < l →
        t.getR i.tk i.g (l * n + k) f.d.toNat = pw (wn ((op s i g l n).d / 2 ^ (32 * k))) (op s i g l n).poison) ∧
      (∀ n, carry g' n = if n ∈ ns then (match (op s i g l n).cf with
        | some b => { val := b && !(op s i g l n).poison, poison := (op s i g l n).poison } | none => carry g n) else carry g n) ∧
      (∀ n, carryW g' n = if n ∈ ns then (match (op s i g l n).cw with
        | some w => pw (wn w) (op s i g l n).poison | none => carryW g n) else carryW g n)

end Sys2Proof.Claim

/-- Long sums and differences, shifts, rows of products and normal form (17 R288-R291), with CF and CW; the sum of `lnorm` whose excess
does not fit CW leaves a free value there, which is the model's choice (log 47). -/
def Obligations.LimbArithmetic : Prop :=
  ∀ f : FR,
    (let N (l : Nat) : Nat := 2 ^ (32 * l)
     let a (s : State) (i : Issue) (l n : Nat) : Nat := intOf s i l n f.a.toNat
     let b (s : State) (i : Issue) (l n : Nat) : Nat := intOf s i l n f.b.toNat
     let bad (s : State) (i : Issue) (l n : Nat) : Bool := intBad s i l n f.a.toNat || intBad s i l n f.b.toNat
     let im := immOf f.ext
     let words := im / 16 % 64
     let wide (l y : Nat) (p : Bool) : Chained :=
       let w : Word := if y / N l < 2 ^ 32 then wn (y / N l) else Config.excessWord y
       { d := y % N l, cw := some w.toNat, cf := some (w ≠ 0), poison := p }
     ChainEffect (.ladd f) f (fun s i _ l n =>
       { d := (a s i l n + b s i l n) % N l, cf := some (N l ≤ a s i l n + b s i l n), poison := bad s i l n }) ∧
     ChainEffect (.laddc f) f (fun s i g l n =>
       let y := a s i l n + b s i l n + (carry g n).val.toNat
       { d := y % N l, cf := some (N l ≤ y), poison := bad s i l n || (carry g n).poison }) ∧
     ChainEffect (.lsub f) f (fun s i _ l n =>
       { d := (N l + a s i l n - b s i l n) % N l, cf := some (a s i l n < b s i l n), poison := bad s i l n }) ∧
     ChainEffect (.lsubb f) f (fun s i g l n =>
       let y := b s i l n + (carry g n).val.toNat
       { d := (2 * N l + a s i l n - y) % N l, cf := some (a s i l n < y), poison := bad s i l n || (carry g n).poison }) ∧
     ChainEffect (.lneg f) f (fun s i _ l n =>
       { d := (N l - a s i l n) % N l, cf := some (a s i l n ≠ 0), poison := intBad s i l n f.a.toNat }) ∧
     (let count (s : State) (i : Issue) (l n : Nat) : Nat := (s.src i kInt (l * n) f.b.toNat).val.toNat % 2 ^ 11
      let badC (s : State) (i : Issue) (l n : Nat) : Bool := intBad s i l n f.a.toNat || (s.src i kInt (l * n) f.b.toNat).poison
      ChainEffect (.lshl f) f (fun s i _ l n =>
        let y := a s i l n * 2 ^ count s i l n
        { d := y % N l, cf := some (N l ≤ y), poison := badC s i l n }) ∧
      ChainEffect (.lshr f) f (fun s i _ l n =>
        { d := if im.testBit 0 then (sext (a s i l n) (32 * l) / 2 ^ count s i l n % (N l : Int)).toNat
               else a s i l n / 2 ^ count s i l n
          poison := badC s i l n })) ∧
     ChainEffect (.lshlw f) f (fun s i _ l n =>
       let y := a s i l n * 2 ^ (32 * words)
       let low := if words ≤ l then b s i l n / 2 ^ (32 * (l - words)) else b s i l n * 2 ^ (32 * (words - l))
       { d := (y + if im % 4 = 1 then low else 0) % N l, cf := some (N l ≤ y)
         poison := intBad s i l n f.a.toNat || (decide (im % 4 = 1) && intBad s i l n f.b.toNat) }) ∧
     ChainEffect (.lshrw f) f (fun s i g l n =>
       let fill : Nat × Bool :=
         if im % 4 = 1 then (b s i l n, intBad s i l n f.b.toNat) else if im % 4 = 2 then ((carryW g n).val.toNat, (carryW g n).poison)
         else if im % 4 = 3 then (if (a s i l n).testBit (32 * l - 1) then N l - 1 else 0, false) else (0, false)
       { d := (fill.1 * N l + a s i l n) / 2 ^ (32 * words) % N l, poison := intBad s i l n f.a.toNat || fill.2 }) ∧
     ChainEffect (.lmac f) f (fun s i _ l n =>
       let w := s.src i kInt (l * n + im % 32 % l) f.b.toNat
       let z := im.testBit 5
       wide l ((if z then 0 else intOf s i l n f.d.toNat) + a s i l n * w.val.toNat)
         (intBad s i l n f.a.toNat || w.poison || (!z && intBad s i l n f.d.toNat))) ∧
     ChainEffect (.lnorm f) f (fun s i _ l n => wide l (a s i l n + b s i l n * 2 ^ 32) (bad s i l n)))

/-- Binding and unbinding (17 R295), long compares (R288) and the overflow mask (R292). That a halted integer counts as live in the overflow
mask is the model's choice (log 35). -/
def Obligations.LimbBindingAndTests : Prop :=
  ∀ f : FR,
    (∀ s i m g, Issuing s i m g → CleanPred i g f.ext → takers i g f.ext ≠ [] →
      (g.limbs = none → (∀ t, t < 32 → t ∈ takers i g f.ext ∧ t ∈ i.cand ∧ (g.thread t).live = true) →
        ∃ t, exec (.lbind f) s = .next t ∧ OnlyGroup s t i m ∧
          t.group i.tk i.g = some { g with limbs := some (2 ^ (immOf f.ext % 8)), cf := [], cw := [] }) ∧
      (g.limbs ≠ none → (∀ e ∈ g.th, e.2.live = true → e.1 ∈ takers i g f.ext) →
        ∃ t, exec (.lunbind f) s = .next t ∧ OnlyGroup s t i m ∧
          t.group i.tk i.g = some { g with limbs := none, cf := [], cw := [] })) ∧
    (∀ s i m g l ns, Bound s i m g f.ext l ns →
      (∃ t g', exec (.lcmp f) s = .next t ∧ OnlyGroup s t i m ∧ t.group i.tk i.g = some g' ∧ { g' with th := g.th } = g ∧
        ∀ j, tget? g'.th j = (tget? g.th j).map fun th =>
          let im := immOf f.ext
          let a := intOf s i l (j / l) f.a.toNat
          let b := intOf s i l (j / l) f.b.toNat
          let x : Int := if im.testBit 4 then a else sext a (32 * l)
          let y : Int := if im.testBit 4 then b else sext b (32 * l)
          let bad := intBad s i l (j / l) f.a.toNat || intBad s i l (j / l) f.b.toNat
          let holds : Bool := match im % 8 with
            | 0 => x = y | 1 => x ≠ y | 2 => x < y | 3 => x ≤ y | 4 => y < x | _ => y ≤ x
          if j ∈ takers i g f.ext then th.setPred f.d.toNat { val := holds && !bad, poison := bad } else th) ∧
      (Fits .L f g 1 → f.w = false → ns ≠ [] →
        ∃ t, exec (.lovf f) s = .next t ∧ OnlyGroup s t i m ∧
          (∀ j c, Named g c → ¬ Writes f (takers i g f.ext) 1 j c → t.getR i.tk i.g j c = s.getR i.tk i.g j c) ∧
          ∀ j, Writes f (takers i g f.ext) 1 j f.d.toNat →
            t.getR i.tk i.g j f.d.toNat = clean (bitsWord fun n => decide (n < 32 / l) &&
              ((lanesOf l n).any fun k => (g.thread k).st ≠ .exited) &&
              if (immOf f.ext).testBit 0 then (carry g n).poison else (carry g n).val && !(carry g n).poison)))

namespace Sys2Proof.Claim

/-- 23 R357: the page of an address is the last one that a lane of a core has translated, and admits the access. -/
def AtHand (s : State) (c lane ctx va : Nat) (p : Perm) (key : Nat) : Prop :=
  ∃ e, tget? (s.core c).lastPage lane = some e ∧ e.hits ctx va = true ∧ admits e.pte.toNat p = true ∧
    key = leafKey s.devno e.pte.toNat e.level va

end Sys2Proof.Claim

/-- Limb-vector loads and stores of one integer, on pages that its lanes have at hand (17 R296, R297): one access of 4 bytes for each limb,
at its address, where no limb of a store meets a cause at its slice; no register and no byte of memory changes yet. -/
def Obligations.LimbAccesses : Prop :=
  ∀ (f : FR) (s : State) (i : Issue) (m : Team) (g : Group) (l n : Nat), Bound s i m g f.ext l [n] →
    (∀ x ∈ s.accs, x.2.src ≠ i.tk / 16 ∧ x.2.tk ≠ i.tk ∧ x.1 < s.nextId) → (∀ o ∈ s.ops, o.2.tk ≠ i.tk) →
    (s.core (i.tk / 16)).wpts = [] → (g.thread (l * n)).smplNext = false → (s.core (i.tk / 16)).smplctl.toNat % 32 = 0 →
    (let a := s.pair i (l * n) f.a.toNat
     let ea : Int := a.val.toNat + 4 * sext (immOf f.ext / 32 % 2 ^ 12) 12 + if f.a.toNat < 64 then 0 else 4 * (l * n : Nat)
     let at_ (k : Nat) : Nat := ea.toNat + 4 * k
     let sent (t : State) (kind : AKind) (key : Nat → Nat) (k : Nat) (dst : Option Nat) (data : List Byte) : Prop :=
       ∃ x, tget? t.accs (s.nextId + 1 + k) = some x ∧ x.kind = kind ∧ x.src = i.tk / 16 ∧ x.tk = i.tk ∧ x.g = i.g ∧
         x.lanes = [l * n + k] ∧ x.va = at_ k ∧ x.key = key k ∧ x.width = 4 ∧ x.dst = dst ∧ x.data = data ∧ x.limb = some n ∧ x.stage = .core
     let same (t : State) : Prop := (∀ b, mget t.mem b = mget s.mem b) ∧ (∀ k, k ≠ i.tk → t.team k = s.team k) ∧
       ∀ j c, t.getR i.tk i.g j c = s.getR i.tk i.g j c
     a.poison = false → 0 ≤ ea → ea < 2 ^ 56 → ea % 4 = 0 →
     ∀ key : Nat → Nat,
      ((∀ k, k < l → AtHand s (i.tk / 16) (laneOf i.g (l * n + k)) m.ctx (at_ k) .read (key k)) →
        at_ l ≤ 2 ^ 56 →
        ∃ t, exec (.lld f) s = .next t ∧ same t ∧ ∀ k, k < l → sent t .load key k (if f.w then none else some f.d.toNat) []) ∧
      ((∀ k, k < l → AtHand s (i.tk / 16) (laneOf i.g (l * n + k)) m.ctx (at_ k) .write (key k)) →
        at_ l ≤ 2 ^ 56 → (∀ t ∈ lanesOf l n, (s.src i kInt t f.b.toNat).poison = false) →
        (∀ k, k < l → (s.line (key k / 128)).acc = none ∧
          (isRemote (key k) = false ∨ Config.remoteGrant s.devno m.tenant (key k / 4096) = true)) →
        ∃ t, exec (.lst f) s = .next t ∧ same t ∧
          ∀ k, k < l → sent t .store key k none (leBytes 4 (s.src i kInt (l * n + k) f.b.toNat).val.toNat)))

/-! Words to the engines (class E). -/

namespace Sys2Proof.Claim

/-- A command on its way out of a core, with number `id`, and nothing else but the wait slot: no register and no byte of memory changes. -/
def Commanded (s t : State) (i : Issue) (m : Team) (ls : List Nat) (id va : Nat) (c : ECmd) : Prop :=
  { t with accs := s.accs, ops := s.ops, nextId := s.nextId, teams := s.teams, issues := s.issues } = s ∧ TileFrame s t i ∧
  ∃ a, tget? t.accs id = some a ∧ a.kind = .command c ∧ a.src = i.tk / 16 ∧ a.tk = i.tk ∧ a.g = i.g ∧ a.lanes = ls ∧ a.ctx = m.ctx ∧
    a.va = va ∧ a.stage = .core ∧ a.dt = s.dt

end Sys2Proof.Claim

/-- Cards, graphs, collectives, barriers, counters and weights (19 R323, R325-R328): a well-formed command leaves once per candidate, with
its operands; `tb.init` sets its barrier and `cnt.init` writes eight bytes. That `tb.init` acts at its word is the model's choice (log 51). -/
def Obligations.EngineCommands : Prop :=
  ∀ (f : FE) (s : State) (i : Issue) (m : Team) (g : Group) (l : Nat) (r : List Nat), Takes s i m g f.ext l r →
    ¬(132 ≤ f.a.toNat ∧ f.a.toNat < 140) → ¬(132 ≤ f.b.toNat ∧ f.b.toNat < 140) →
    (let a := s.src i kInt l f.a.toNat
     let b := s.src i kInt l f.b.toNat
     let pa := s.pair i l f.a.toNat
     let pb := s.pair i l f.b.toNat
     let addr := a.val.toNat + 2 ^ 32 * b.val.toNat
     let q := immOf f.ext % 256
     let able (x : Nat) : Prop := x % 64 = 0 ∧ x < 2 ^ 56
     let sends (x : Instr) (id va : Nat) (c : ECmd) : Prop := ∃ t, exec x s = .next t ∧ Commanded s t i m (l :: r) id va c
     (a.poison = false → b.poison = false → able addr → q ≤ 16 →
       sends (.cardEnq f) (s.nextId + 1) addr (.enq q addr false) ∧ sends (.graphLaunch f) (s.nextId + 1) addr (.enq q addr true)) ∧
     (pa.poison = false → able pa.val.toNat →
       sends (.collStart f) (s.nextId + 1) pa.val.toNat (.collStart pa.val.toNat) ∧
       (pb.poison = false →
         sends (.collRearm f) (s.nextId + 1) pa.val.toNat (.collRearm pa.val.toNat pb.val.toNat))) ∧
     (a.poison = false → pb.poison = false → able pb.val.toNat →
       sends (.collReady f) (s.nextId + 1) pb.val.toNat (.collReady a.val.toNat pb.val.toNat)) ∧
     (a.poison = false → b.poison = false → a.val.toNat ≤ 7 → b.val.toNat ≤ 255 →
       sends (.wgtSet f) s.nextId 0 (.weight a.val.toNat b.val.toNat)) ∧
     (f.tb.toNat < m.tbn → a.poison = false → a.val.toNat < 2 ^ 24 → s.tbNamed i.tk f.tb.toNat = false →
       ∃ t m', exec (.tbInit f) s = .next t ∧ TileFrame s t i ∧ t.team i.tk = some m' ∧
         tget? m'.tbs f.tb.toNat = some { pend := a.val.toNat } ∧ ∀ k, k ≠ f.tb.toNat → tget? m'.tbs k = tget? m.tbs k) ∧
     (pa.poison = false → pb.poison = false → pa.val.toNat % 8 = 0 → pa.val.toNat < 2 ^ 56 →
       ∀ key rec s', s.xlate (i.tk / 16) (some (laneOf i.g l)) m.ctx pa.val.toNat .write = (.ok key rec, s') →
       (∀ x ∈ s.accs, x.2.src ≠ i.tk / 16 ∧ x.2.tk ≠ i.tk ∧ x.1 < s.nextId) →
       ∃ t x, exec (.cntInit f) s = .next t ∧ TileFrame s t i ∧ tget? t.accs (s.nextId + 1) = some x ∧ x.kind = .engine ∧
         x.va = pa.val.toNat ∧ x.key = key ∧ x.width = 8 ∧ x.data = leBytes 8 pb.val.toNat ∧ x.lanes = l :: r ∧ x.stage = .core))

/-- The first slice of a team copy (19 R308, R323): its command stands in the engine with its descriptor's offset, its completion and its
handle; the group has issued one copy more. -/
def Obligations.CopyCommands : Prop :=
  ∀ (f : FE) (s : State) (i : Issue) (m : Team) (g : Group) (l : Nat) (r : List Nat), Takes s i m g f.ext l r →
    ¬(132 ≤ f.a.toNat ∧ f.a.toNat < 140) → (∀ e ∈ g.th, e.2.live = true → e.1 ∈ i.cand) → s.copies = [] →
    (let a := s.src i kInt l f.a.toNat
     let o := a.val.toNat
     let k := f.b.toNat % 16
     let mode := (mget m.sh (o + 52)).toNat
     let placed (x : Instr) (h : Option Nat) : Prop :=
       ∃ t g', exec x s = .next t ∧ TileFrame s t i ∧ t.group i.tk i.g = some g' ∧ g'.copyNum = g.copyNum + 1 ∧
         t.copies = [(s.nextId + 2, { team := some i.tk, num := g.copyNum, ctx := m.ctx, tenant := m.tenant, die := i.tk / 16 / 72
                                      slices := [(i.g, { g := i.g, id := s.nextId + 1, dt := s.dt, offset := o, handle := h
                                                         comp := f.comp.toNat, tb := f.tb.toNat, op := some s.nextId, lanes := l :: r })] })]
     a.poison = false → immOf f.ext % 2 = 0 → (f.comp.toNat = 1 → f.tb.toNat < m.tbn) → o % 64 = 0 → o + 64 ≤ m.shSize →
      placed (.copy f) none ∧
      ((s.range i.tk k).gran ≠ 0 → (mode / 4 % 4 = 3 ∨ mode / 16 % 4 = 3) → placed (.copyts f) (some k)))

/-! Debugging and cache control (class S). -/

/-- Watchpoints and comparators (13 R241, R242): armed with what the word gives, for the context of the team, or cleared; a control that
is not admitted sets DERR of the threads that take the word and arms nothing. -/
def Obligations.WatchpointsAndComparators : Prop :=
  ∀ (f : FR) (s : State) (i : Issue) (m : Team) (g : Group) (l : Nat) (r : List Nat), Takes s i m g f.ext l r →
    (let c := i.tk / 16
     let a := s.pair i l f.a.toNat
     let b := s.src i kInt l f.b.toNat
     let w := b.val.toNat
     let n := f.d.toNat
     let space := w % 4
     let at_ := if space = 0 then a.val.toNat else a.val.toNat % 2 ^ 32
     let good : Prop := space ≠ 3 ∧ w / 4 % 4 ≠ 0 ∧ w / 16 % 16 ≠ 15 ∧ at_ % (4 * 2 ^ (w / 16 % 16)) = 0
     let becomes (x : Instr) (k : Core) : Prop := ∃ t, exec x s = .next t ∧ { t with cores := s.cores, issues := s.issues } = s ∧
       t.core c = k ∧ ∀ d, d ≠ c → t.core d = s.core d
     let refused (x : Instr) : Prop := ∃ t g', exec x s = .next t ∧ OnlyGroup s t i m ∧ t.group i.tk i.g = some g' ∧
       { g' with th := g.th } = g ∧ ∀ j, tget? g'.th j = (tget? g.th j).map fun th => if j ∈ l :: r then { th with derr := true } else th
     (a.poison = false → b.poison = false →
       (good → becomes (.wptArm f) { s.core c with wpts := tset (s.core c).wpts n { addr := at_, ctl := b.val, ctx := m.ctx } }) ∧
       (¬ good → refused (.wptArm f)) ∧
       (Target a.val.toNat → becomes (.pcmpSet f)
         { s.core c with cmps := tset (s.core c).cmps n { addr := a.val.toNat, filter := b.val, ctx := m.ctx } }) ∧
       (¬ Target a.val.toNat → refused (.pcmpSet f))) ∧
     becomes (.wptClr f) { s.core c with wpts := terase (s.core c).wpts n } ∧
     becomes (.pcmpClr f) { s.core c with cmps := terase (s.core c).cmps n } ∧
     (b.poison = true → refused (.wptArm f) ∧ refused (.pcmpSet f)))

/-- Halting, resuming and stepping threads (13 R238, R240; 28 R415) of unbound groups by group and lane masks, and the mailbox (27 R410):
`halt`, `resume` and `sstep` with good operands complete, and so does `mbox.wr`. -/
def Obligations.HaltsStepsAndMailbox : Prop :=
  ∀ (f : FR) (s : State) (i : Issue) (m : Team) (g : Group) (l : Nat) (r : List Nat), Takes s i m g f.ext l r →
    (let a := s.src i kInt l f.a.toNat
     let b := s.src i kInt l f.b.toNat
     let reached (t : State) (new : Nat → Group → Nat → Thread → Thread) : Prop :=
       (∀ k, mget t.mem k = mget s.mem k) ∧ (∀ k, k ≠ i.tk → t.team k = s.team k) ∧
         (∀ h k n, t.getR i.tk h k n = s.getR i.tk h k n) ∧
         ∀ h gr n, tget? m.groups h = some gr → t.thread i.tk h n = (tget? gr.th n).map fun th =>
           if h < 16 ∧ a.val.getLsbD h = true ∧ n < 32 ∧ b.val.getLsbD n = true ∧ th.st ≠ .exited then new h gr n th else th
     (a.poison = false → b.poison = false → (∀ h gr, tget? m.groups h = some gr → gr.limbs = none ∧ tsorted gr.th = true ∧ ∀ n, 32 ≤ n → tget? gr.th n = none) →
      (∃ t, exec (.halt f) s = .next t ∧ reached t fun h gr n th => if th.halted ∨ th.haltPend then th
        else if th.st = .ready ∧ gr.parks = [] ∧ (∃ j ∈ s.issues, j.tk = i.tk ∧ j.g = h ∧ n ∈ j.cand) then { th with haltPend := true }
        else { th with halted := true }) ∧
      ((∀ h gr n th, tget? m.groups h = some gr → tget? gr.th n = some th → th.waiting = false) →
        ∃ t, exec (.resume f) s = .next t ∧ reached t fun _ _ _ th =>
          if th.halted ∨ th.haltPend then { th with haltPend := false, halted := false } else th) ∧
      (∃ t, exec (.sstep f) s = .next t ∧ reached t fun _ gr _ th =>
        if th.halted = true ∧ th.st = .ready ∧ th.held = [] ∧ gr.parks = [] then { th with halted := false, step := true } else th)) ∧
     (a.poison = false → ∃ t rec, exec (.mboxWr f) s = .next t ∧
        { t with cores := s.cores, sources := s.sources, nextId := s.nextId, issues := s.issues } = s ∧
        (t.core (i.tk / 16)).mboxOut = (s.core (i.tk / 16)).mboxOut ++ [rec] ∧ rec.kind = 1 ∧ rec.g = i.g ∧ rec.value = a.val ∧
        rec.pc = i.pc ∧ rec.dt = s.dt ∧ rec.ctx = m.ctx ∧ ∀ n, n < 32 → rec.mask.getLsbD n = decide (n ∈ l :: r)) ∧
     (a.poison = true → ∀ x, x = Instr.halt f ∨ x = .resume f ∨ x = .sstep f ∨ x = .mboxWr f →
        ∃ t, exec x s = .next t ∧ OnlyGroup s t i m ∧ ∀ j, t.thread i.tk i.g j = (tget? g.th j).map fun th =>
          if j ∈ l :: r then { th with derr := true } else th))

/-- Prefetch, invalidate and write back (13 R244) of a range within one page: a request for each line of the range, or its words
that the core does not own dropped from the L1; no register and no byte of memory changes. -/
def Obligations.CacheWords : Prop :=
  ∀ (f : FR) (s : State) (i : Issue) (m : Team) (g : Group) (l : Nat), MemReady s i m g f.ext l →
    (let a := (s.pair i l f.a.toNat).val.toNat
     let b := (s.src i kInt l f.b.toNat).val.toNat
     let inRange (v : Nat) : Prop := a / 128 ≤ v ∧ v ≤ (a + b - 1) / 128
     let same (t : State) : Prop := (∀ k, mget t.mem k = mget s.mem k) ∧ (∀ k, k ≠ i.tk → t.team k = s.team k) ∧
       ∀ k c, t.getR i.tk i.g k c = s.getR i.tk i.g k c
     let sent (t : State) (kind : AKind) (key v : Nat) : Prop := ∃ id x, tget? t.accs id = some x ∧ x.kind = kind ∧ x.src = i.tk / 16 ∧
       x.lanes = [l] ∧ x.va = 128 * v ∧ x.key = 128 * (key / 128 + v % 32) ∧ x.stage = .core
     (s.pair i l f.a.toNat).poison = false → (s.src i kInt l f.b.toNat).poison = false → 0 < b → b ≤ 4096 → a + b ≤ 2 ^ 56 →
     a / 4096 = (a + b - 1) / 4096 →
     ∀ key rec s',
      (s.xlate (i.tk / 16) (some (laneOf i.g l)) m.ctx (4096 * (a / 4096)) .read = (.ok key rec, s') →
        ∃ t, exec (.prefetch f) s = .next t ∧ same t ∧ ∀ v, inRange v → sent t (.prefetch (decide (immOf f.ext % 2 = 1))) key v) ∧
      (s.xlate (i.tk / 16) (some (laneOf i.g l)) m.ctx (4096 * (a / 4096)) .drop = (.ok key rec, s') →
        (∃ t, exec (.cinv f) s = .next t ∧ same t ∧ ∀ v, inRange v → ∀ x, tget? (t.core (i.tk / 16)).l1 (key / 128 + v % 32) = some x →
          ∀ w ∈ x.valid, w ∈ x.owned) ∧
        ∃ t, exec (.cwb f) s = .next t ∧ same t ∧ ∀ v, inRange v → (s.line (key / 128 + v % 32)).dirty = true → sent t .writeback key v))

/-! Steps of the hardware. -/

namespace Sys2Proof.Claim

/-- Every byte of memory is as it was. -/
def MemSame (s t : State) : Prop := ∀ a, mget t.mem a = mget s.mem a
/-- Every register of every thread and group is as it was. -/
def RegsSame (s t : State) : Prop := ∀ tk g l c, t.getR tk g l c = s.getR tk g l c
/-- Bytes `l` stand at `key`, and every other byte of memory is as it was. -/
def Stored (s t : State) (key : Nat) (l : List Byte) : Prop :=
  (∀ k, k < l.length → mget t.mem (key + k) = l.getD k 0) ∧ ∀ a, ¬(key ≤ a ∧ a < key + l.length) → mget t.mem a = mget s.mem a
/-- An access in progress, the only one of its core or engine. -/
structure Sole (s : State) (id : Nat) (a : Access) : Prop where
  acc : tget? s.accs id = some a
  only : ∀ x ∈ s.accs, x.2.src = a.src → x.1 = id
/-- An access at its home slice that nothing stops: granted, and of no open accumulator. -/
def Admitted (s : State) (a : Access) : Prop :=
  (isRemote a.key = false ∨ Config.remoteGrant s.devno a.tenant (a.key / 4096) = true) ∧ (s.line (a.key / 128)).acc = none
/-- 07 R126: the access has been performed: it is acknowledged, or waits for its revocations. -/
def Performed (t : State) (id : Nat) : Prop :=
  ∃ x, tget? t.accs id = some x ∧ (x.stage = .performed ∨ ∃ n, x.stage = .back n)
/-- The registers of a loaded or returned value (11 R185): those of a thread whose window stands where it stood at issue. -/
def Given (s t : State) (a : Access) (l d : Nat) (v : List Byte) (p : Bool) : Prop :=
  MemSame s t ∧ (∀ k, k < max 1 (a.width / 4) → t.getR a.tk a.g l (d + k) = pw (wn (leNat (v.take a.width) / 2 ^ (32 * k))) p) ∧
  ∀ tk g n c, (tk, g) ≠ (a.tk, a.g) → t.getR tk g n c = s.getR tk g n c
/-- The thread and the group of an access stand as at its issue, and the destination in its file; no clause granted later has written a scalar
one (01 R31). -/
def Waits (s : State) (a : Access) (l d : Nat) : Prop :=
  a.dst = some d ∧ a.lanes = [l] ∧ ∃ gr th, s.group a.tk a.g = some gr ∧ tget? gr.th l = some th ∧ th.st ≠ .exited ∧ th.wb = a.wb ∧
    ((d + max 1 (a.width / 4) ≤ 64 ∧ d + max 1 (a.width / 4) ≤ gr.ba) ∨
      (64 ≤ d ∧ d + max 1 (a.width / 4) ≤ 128 ∧ ∀ k, k < max 1 (a.width / 4) → tget gr.sLast (d - 64 + k) 0 ≤ a.clause))

end Sys2Proof.Claim

/-- Accesses under way (07 R121, R123, R125-R128, R137; 11 R191-R195; 12 R217; 15 R275, R276; 05 R95; 29 R424): leaving the core, being
performed at the home slice, being answered, and what ends with time. -/
def Obligations.AccessSteps : Prop :=
  ∀ (s : State) (id : Nat),
    (∀ a, Sole s id a → a.isCommand = false → a.space ≠ .sh → s.leaveDue id a = true →
      ∃ t n cid, exec (.strikeQuarantineExpiry id) s = .next t ∧ s.dt + routeMin a.src a.key ≤ n ∧
        tget? t.accs id = some { a with stage := .net n (portOf a.src a.key), cid := cid } ∧ MemSame s t ∧ t.teams = s.teams) ∧
    (∀ a, tget? s.accs id = some a → s.readDue id a = true → Admitted s a →
      ∃ t x n, exec (.homeSliceRead id) s = .next t ∧ tget? t.accs id = some x ∧ x.stage = .back n ∧ s.dt + routeMin a.src a.key ≤ n ∧
        x.value = mgets s.mem a.key a.width ∧ x.cause = 0 ∧ MemSame s t ∧ t.teams = s.teams ∧ t.cores = s.cores ∧
        (isScratch a.key = false → a.src < 288 → a.kind ≠ .prefetch false → s.dt + s.leaseLen a.key ≤ (t.line (a.key / 128)).maxLE)) ∧
    (∀ a, tget? s.accs id = some a → a.kind = .store → s.writeDue id a = true → Admitted s a → s.limbBarred a = false →
      ∃ t, exec (.homeSliceWrite id) s = .next t ∧ Stored s t a.key a.data ∧ RegsSame s t ∧ Performed t id ∧
        (isScratch a.key = false → ∀ w ∈ wordsOf a.key a.data.length, tget? (t.line (a.key / 128)).owners w = some a.src)) ∧
    (∀ a op, tget? s.accs id = some a → a.kind = .atom op → s.atomicDue id a = true → Admitted s a →
      s.anyMarked a.key a.width = false →
      (let old := mgets s.mem a.key a.width
       ∃ t x, exec (.homeSliceAtomic id) s = .next t ∧ RegsSame s t ∧ Performed t id ∧ tget? t.accs id = some x ∧ x.value = old ∧
        match atomWrites op (8 * a.width) (leNat old) (leNat a.data) (leNat a.cmp) with
        | some v => Stored s t a.key (leBytes a.width v)
        | none => MemSame s t)) ∧
    (∀ a core r, tget? s.accs id = some a → (a.revs.find? fun r => r.core == core && s.revokeDue a r) = some r →
      ∃ t, exec (.ownershipRevocation id core) s = .next t ∧ MemSame s t ∧ t.teams = s.teams ∧
        ∀ x, tget? (t.core core).l1 r.line = some x → ∀ w ∈ x.owned, w ∉ r.words) ∧
    (∀ a core r, tget? s.accs id = some a → (a.revs.find? fun r => r.core == core && s.confirmDue a r) = some r →
      ∃ t x, exec (.revocationConfirmation id core) s = .next t ∧ MemSame s t ∧ t.teams = s.teams ∧ t.cores = s.cores ∧
        tget? t.accs id = some x ∧ x.revs = a.revs.filter (· != r) ∧ (x.revs = [] ↔ ∃ n, x.stage = .back n)) ∧
    (∀ a, Sole s id a → a.src < 288 → a.save = none → a.cause = 0 → s.ackDue a = true → a.isAcq = false →
      (a.kind = .store → ∃ t, exec (.acknowledgement id) s = .next t ∧ tget? t.accs id = none ∧ MemSame s t ∧ RegsSame s t ∧
        (t.group a.tk a.g).map (·.gwctmax) = (s.group a.tk a.g).map fun g => max g.gwctmax (s.skewUp a.key a.gwct)) ∧
      (∀ op l d, a.kind = .atom op → a.vpois = false → Waits s a l d →
        ∃ t, exec (.acknowledgement id) s = .next t ∧ tget? t.accs id = none ∧ Given s t a l d a.value false)) ∧
    (∀ a n l d v, Sole s id a → a.src < 288 → a.isLoad = true → a.stage = .back n → s.fillDue id a = true → a.limb = none →
      a.isAcq = false → a.cause = 0 → a.width = 4 → a.key % 4 = 0 → a.fill.length = 32 → a.fill[a.key % 128 / 4]? = some (clean v) →
      Waits s a l d →
      ∃ t, exec (.fillArrival id) s = .next t ∧ tget? t.accs id = none ∧ Given s t a l d (leBytes 4 v.toNat) false) ∧
    (∀ a l d, Sole s id a → a.src < 288 → a.isLoad = true → s.remoteLate a = true → a.limb = none → a.isAcq = false → Waits s a l d →
      ∃ t, exec (.remoteTimeout id) s = .next t ∧ tget? t.accs id = none ∧ Given s t a l d [] true) ∧
    (∀ core line x, tget? (s.core core).l1 line = some x → x.le ≤ s.dt →
      exec (.leaseExpiry core line) s = .next { s with cores := tset s.cores core { s.core core with l1 := terase (s.core core).l1 line } }) ∧
    (∀ o m g, tget? s.ops id = some o → o.left = 0 → s.team o.tk = some m → tget? m.groups o.g = some g →
      ∃ t, exec (.slotCompletion id) s = .next t ∧ { t with ops := s.ops, teams := s.teams } = s ∧ tget? t.ops id = none ∧
        t.group o.tk o.g = some { g with ws := tset g.ws o.slot (tget g.ws o.slot 0 - 1) }) ∧
    (∀ line, (s.line line).present = true → (s.line line).acc = none →
      exec (.lineEviction line) s =
        .next { s with lines := tset s.lines line { s.line line with present := false, zero := false, dirty := false } }) ∧
    (∀ tk k m g, s.team tk = some m → tget? m.groups k = some g → s.vfenceDue tk k = true →
      ∃ t, exec (.vfenceRelease tk k) s = .next t ∧ { t with teams := s.teams } = s ∧ t.group tk k = some { g with vfence := false } ∧
        ∀ j, j ≠ tk → t.team j = s.team j)

namespace Sys2Proof.Claim

/-- 15 R276: a tile has closed: it is open no more, no byte outside it has changed, and its words hold its values: as they are, where none
is poisoned and the sums of its rows and columns agree with the predictions; all poisoned, where a protocol error has met it. -/
def TileClosed (s t : State) (key : Nat) (acc : Accum) (tol : Nat) : Prop :=
  let lines := tileLines acc.pages
  let word (n : Nat) : PWord := tget acc.tile n (clean 0)
  let sums (cells : List Nat) (p m : PWord) : Prop := p.poison = true ∨ m.poison = true ∨
    agree p.val (rounding (cells.map fun n => val .f32 (word n).val.toNat)) m.val (max 16 tol) = true
  tget? t.accums (key / 128) = none ∧ (∀ b, b / 128 ∉ lines → mget t.mem b = mget s.mem b) ∧ (∀ l ∈ lines, (t.line l).acc = none) ∧
  (lines.Nodup → ∀ n l, n < 4096 → lines[n / 32]? = some l →
    (acc.bad = false → (∀ k, k < 4096 → (word k).poison = false) →
      (∀ i, i < 64 → sums ((List.range 64).map (64 * i + ·)) (tget acc.prow i (clean 0)) (tget acc.mrow i (clean 0))) →
      (∀ j, j < 64 → sums ((List.range 64).map (64 * · + j)) (tget acc.pcol j (clean 0)) (tget acc.mcol j (clean 0))) →
      mgets t.mem (128 * l + 4 * (n % 32)) 4 = leBytes 4 (word n).val.toNat ∧ t.marked (128 * l + 4 * (n % 32)) = false) ∧
    (acc.bad = true → t.marked (128 * l + 4 * (n % 32)) = true))

end Sys2Proof.Claim

/-- Merges and closes at a home slice (03 R74; 15 R275, R276): a contribution in its turn is added value by value to the tile; a close takes
its number and waits for its contributions, or closes, at once or when its lines are free, with the tile's values in its lines and no byte
changed outside them. -/
def Obligations.AccumulatorSteps : Prop :=
  ∀ (s : State) (id : Nat) (a : Access) (acc : Accum), tget? s.accs id = some a → tget? s.accums (a.key / 128) = some acc →
    (∀ c, a.kind = .commit c → s.mergeDue id a = true → acc.close = none → acc.protocolError c.index = false →
      (∀ i, c.index = some i → acc.inOrder i = true) →
      ∃ t acc', exec (.commitMerge id) s = .next t ∧ MemSame s t ∧ RegsSame s t ∧ Performed t id ∧
        tget? t.accums (a.key / 128) = some acc' ∧ acc'.merged = acc.merged + 1 ∧
        ∀ n, n < 4096 → tget acc'.tile n (clean 0) = addP (tget acc.tile n (clean 0)) (tget c.st.acc n (clean 0))) ∧
    (∀ e tol, a.kind = .close e tol → s.closeDue id a = true → acc.close = none → e ≠ 0 → acc.merged ≤ e → (∀ i ∈ acc.indices, i < e) →
      (acc.merged < e → ∃ t, exec (.closeArrival id) s = .next t ∧ MemSame s t ∧ RegsSame s t ∧ Performed t id ∧
        tget? t.accums (a.key / 128) = some { acc with close := some (e, tol, id) }) ∧
      (acc.merged = e → acc.waiting = [] → s.tileFree acc.pages a.src = true →
        ∃ t, exec (.closeArrival id) s = .next t ∧ RegsSame s t ∧ Performed t id ∧ TileClosed s t a.key acc tol)) ∧
    (∀ e tol n w, a.kind = .close e tol → s.closeDue id a = true → acc.close = some (n, w, id) →
      ∃ t, exec (.closeArrival id) s = .next t ∧ RegsSame s t ∧ Performed t id ∧ TileClosed s t a.key acc w)

namespace Sys2Proof.Claim

/-- The watchdog of a team has fired (01 R43; 11 R201): every group with a thread that is not Exited is parked under one number, and
nothing is released. -/
def Fired (s t : State) (tk : Nat) (m : Team) : Prop :=
  MemSame s t ∧ RegsSame s t ∧ (∀ k, k ≠ tk → t.team k = s.team k) ∧
  ∃ m', t.team tk = some m' ∧ m'.bars = m.bars ∧ m'.tbs = m.tbs ∧
    ∀ h g, tget? m.groups h = some g → ∃ g', tget? m'.groups h = some g' ∧ g'.th = g.th ∧
      g'.parks = g.parks ++ if g.retired = false ∧ (∃ e ∈ g.th, e.2.st ≠ .exited)
        then [{ id := (s.ctx m.ctx).parkid, kind := .watchdog }] else []
/-- Every thread of a team is Exited, and no byte of memory has changed. -/
def AllExited (s t : State) (tk : Nat) (m : Team) : Prop :=
  MemSame s t ∧ ∀ h g l th, tget? m.groups h = some g → tget? g.th l = some th →
    (t.thread tk h l).map (·.st) = some .exited
/-- A team stands in a save record (21 R341-R344): each thread with its registers, predicates, window and address. -/
def Saved (s t : State) (tk : Nat) (m : Team) : Prop :=
  MemSame s t ∧ t.team tk = none ∧ (t.slot tk).st = .saving ∧
  ∃ k v, (t.slot tk).saved = some k ∧ tget? t.saves k = some v ∧ v.written = false ∧ v.team.uid = m.uid ∧
    v.addr = (s.slot tk).area % 2 ^ 48 / 4096 * 4096 ∧ v.dt = s.dt ∧ v.record.take 4 = leBytes 4 0x58315352 ∧
    (v.record.drop 24).take 8 = leBytes 8 s.dt ∧
    ∀ h g, tget? m.groups h = some g → ∃ g', tget? v.team.groups h = some g' ∧ g'.s = g.s ∧ g'.staging = g.staging ∧ g'.limbs = g.limbs ∧
      ∀ l th, tget? g.th l = some th → ∃ th', tget? g'.th l = some th' ∧ th'.v = th.v ∧ th'.p = th.p ∧ th'.ppois = th.ppois ∧
        th'.wb = th.wb ∧ th'.pc = th.pc ∧ th'.links = th.links

end Sys2Proof.Claim

/-- Issue that goes on (`IssueTraps` says where it does not), retirement, watchdogs, slots, pre-emption and saves. Three clauses hold choices of
the model: the area of a save is rounded down to 4 KiB (log 5), a bind record is ignored without running firmware (log 112), and what a lost
late access does to its record or its restored team (log 106) (01 R28, R43, R45; 05 R80; 11 R201; 13 R227; 21 R337-R344; 22 R351). -/
def Obligations.SchedulingSteps : Prop :=
  ∀ s : State,
    (∀ tk k lead m g c i l s', s.team tk = some m → tget? m.groups k = some g → s.groupOpen tk k = true →
      (g.cands.find? fun c => c.headD 32 == lead) = some c → s.prepare tk k c = some (.go i l s') → s.granted tk k c = true →
      (s.core (tk / 16)).cmps = [] → g.limbs = none → (∀ n ∈ c, s'.hazard i l n = none) → (∀ x ∈ l, isPrivileged x.2 = false) →
      (∀ n ∈ c, ((g.thread n).predN i.header.p.toNat i.header.pn).poison = false ∧ (g.thread n).st ≠ .exited) →
      (∃ n ∈ c, ((g.thread n).predN i.header.p.toNat i.header.pn).val = true) →
      ∃ t, exec (.clauseIssue tk k lead) s = .next t ∧ MemSame s t ∧ RegsSame s t ∧
        t.cur = some { i with id := 8 * s.dt + c.headD 0 / 4 + 1
                              live := c.filter fun n => ((g.thread n).predN i.header.p.toNat i.header.pn).val }) ∧
    (∀ tk k l m g th key d, s.team tk = some m → tget? m.groups k = some g → g.limbs = none → tget? g.th l = some th →
      (∃ since, th.st = .waiting [.regang key d] since) → d < s.dt →
      ∃ t, exec (.regangDeadline tk k l) s = .next t ∧ { t with teams := s.teams } = s ∧ RegsSame s t ∧
        t.thread tk k l = some { th with st := .ready }) ∧
    (∀ tk k m g, s.team tk = some m → tget? m.groups k = some g → s.groupRetireDue tk k = true →
      ∃ t, exec (.groupRetire tk k) s = .next t ∧ { t with teams := s.teams } = s ∧ t.group tk k = some { g with retired := true } ∧
        ∀ j, j ≠ tk → t.team j = s.team j) ∧
    (∀ tk n m, s.team tk = some m → tsorted m.groups = true → s.barLate tk n = true →
      ∃ t, exec (.teamBarrierTimeout tk n) s = .next t ∧ Fired s t tk m) ∧
    (∀ tk k l m, s.team tk = some m → tsorted m.groups = true → (tget? m.groups k).isSome = true → s.waitLate tk k l = true →
      ∃ t, exec (.waitTimeout tk k l) s = .next t ∧ Fired s t tk m) ∧
    (∀ tk, tk < 4608 → s.startDue tk = true → s.slotLack tk (s.slot tk) = 0 →
      (let slot := s.slot tk
       let n := slot.w1.toNat + slot.next
       ∃ t m, exec (.teamStart tk none) s = .next t ∧ MemSame s t ∧ (∀ k, k ≠ tk → t.team k = s.team k) ∧ t.team tk = some m ∧
         m.card = slot.card ∧ m.x = wn (n % slot.card.gx) ∧ m.y = wn (n / slot.card.gx % slot.card.gy) ∧
         m.z = wn (n / slot.card.gx / slot.card.gy) ∧ m.hentry = slot.card.hentry ∧ m.shSize = 4096 * slot.card.shu ∧
         m.startDt = s.dt ∧ (t.slot tk).st = .starting ∧ (t.slot tk).next = slot.next + 1 ∧
         ∀ k role ba entry, slot.card.groupList[k]? = some (role, ba, entry) →
           ∃ g, tget? m.groups k = some g ∧ g.role = role ∧ g.ba = ba ∧ g.s = [] ∧ g.limbs = none ∧
             ∀ l, l < 32 → tget? g.th l = some { pc := entry, lastIssue := s.dt, srs := wn (32 * k + l + 1) })) ∧
    (let tk := s.input.tk
     let w (n : Nat) : Dword := s.input.words.getD n 0
     let w0 := w 0 &&& 0xFFFFFFFF00FFFFFF
     let w2 := w 2 &&& 0x00FFFFFFFFFFFFFF
     (tk < 4608 → s.fwRunning = true → (s.slot tk).st = .free → ∀ b, s.bindBytes (tk / 16) w0 (w 1) w2 = some b →
       s.launchOf (bindCtx w0) (bindCard w2) (bindCount w0) = none →
       ∃ t, exec .bindRecordWrite s = .next t ∧ MemSame s t ∧ t.teams = s.teams ∧ (t.slot tk).st = .armed ∧ (t.slot tk).w0 = w0 ∧
         (t.slot tk).w1 = w 1 ∧ (t.slot tk).w2 = w2 ∧ (t.slot tk).w3 = w 3 ∧ (t.slot tk).card = kcardOf (bindCard w2) b ∧
         (t.slot tk).next = 0) ∧
     (tk < 4608 → s.fwRunning = true → (s.slot tk).st ≠ .free → exec .bindRecordWrite s = .next (s.setSlot tk { s.slot tk with status := 1 })) ∧
     (4608 ≤ tk ∨ s.fwRunning = false → exec .bindRecordWrite s = .next s) ∧
     (∀ m, s.team tk = some m → (s.slot tk).st = .running →
       (∃ t, exec .preemptCommand s = .next t ∧ { t with cores := s.cores, teams := s.teams } = s ∧ t.team tk = some { m with drain := true } ∧
         t.slot tk = { s.slot tk with st := .draining, drainAt := s.dt, area := s.input.addr } ∧ ∀ k, k ≠ tk → t.team k = s.team k) ∧
       (∃ t, exec .killCommand s = .next t ∧ AllExited s t tk m ∧ (t.slot tk).st = .ending))) ∧
    (∀ tk m, s.team tk = some m → tsorted m.groups = true →
      (s.drained tk = true → ∃ t, exec (.drainComplete tk) s = .next t ∧ Saved s t tk m) ∧
      (s.drainLate tk = true → ∃ t, exec (.drainTimeout tk) s = .next t ∧ Saved s t tk m)) ∧
    (∀ tk k v, (s.slot tk).st = .saving → (s.slot tk).saved = some k → tget? s.saves k = some v → (∀ x ∈ s.accs, x.2.owner ≠ .save k) →
      (s.core (tk / 16)).rsv = [] →
      ∃ t, exec (.saveRecordWritten tk) s = .next t ∧ MemSame s t ∧ t.teams = s.teams ∧
        (t.slot tk).st = .free ∧ tget? t.saves k = some { v with written := true }) ∧
    (∀ k id v a, tget? s.saves k = some v → tget? s.accs id = some a → s.lostDue k id = true → (∀ x ∈ s.accs, x.1 < s.nextId) →
      ∃ t v', exec (.lateAccessLost k id) s = .next t ∧ MemSame s t ∧ t.teams = s.teams ∧ tget? t.accs id = none ∧
        tget? t.saves k = some v' ∧ v'.lost = true ∧ v'.refused = true ∧ v'.late = v.late.filter (· != id)) ∧
    (∀ k id a tk m, tget? s.saves k = none → tget? s.accs id = some a → s.lostDue k id = true → s.teamAt a.who.uid = some tk →
      s.team tk = some m → tsorted m.groups = true → (s.slot tk).st = .running →
      ∃ t, exec (.lateAccessLost k id) s = .next t ∧ AllExited s t tk m ∧ (t.slot tk).st = .ending)

namespace Sys2Proof.Claim

/-- 19 R310: what the 64 bytes of a descriptor say. -/
def Described (b : List Byte) (d : Desc) : Prop :=
  let n (o k : Nat) : Nat := leNat ((b.drop o).take k)
  d.src = n 0 8 ∧ d.dst = n 8 8 ∧ d.nx = n 16 4 ∧ d.ny = n 20 2 ∧ d.nz = n 22 2 ∧ d.ssy = sext (n 24 4) 32 ∧ d.ssz = sext (n 28 4) 32 ∧
    d.dsy = sext (n 32 4) 32 ∧ d.dsz = sext (n 36 4) 32 ∧ d.limx = n 40 4 ∧ d.limy = n 44 2 ∧ d.limz = n 46 2 ∧ d.fill = n 48 4 ∧
    d.size = 2 ^ (n 52 1 % 4) ∧ d.sspace = n 52 1 / 4 % 4 ∧ d.dspace = n 52 1 / 16 % 4 ∧ d.block = (n 52 1).testBit 6 ∧ d.cnt = n 56 8
/-- A card that a launcher queue has taken (19 R305, R306): Ready, or Refused with the code that its bytes give. -/
def Taken (t : State) (e : Enq) (g : Option Nat) (b : List Byte) (code : Nat) (c : Card) : Prop :=
  c.addr = e.addr ∧ c.ctx = e.ctx ∧ c.tenant = e.tenant ∧ c.queue = e.q ∧ c.graph = g ∧ c.cardid = wn (leNat ((b.drop 4).take 4)) ∧
    c.cnt = leNat ((b.drop 8).take 8) ∧ c.body = (cardOf e.addr b).body ∧ c.status = code ∧ (code ≠ 0 → c.st = .refused) ∧
    (code = 0 → (c.preds = [] → c.st = .ready) ∧ (c.preds ≠ [] → c.st = .waiting)) ∧
    ∀ x ∈ c.preds, (tget? t.cards x).isSome = true
/-- The contents of an object of a context, of bytes that no cause stops. -/
def Object (s : State) (e : Enq) (at_ n : Nat) (b : List Byte) : Prop := s.readObj launcher 0 e.ctx at_ n e.fails = .bytes b
/-- A page of a card is not another device's (19 R304). -/
def Local (s : State) (ctx at_ : Nat) : Prop := ∀ key r, s.xlateDie 0 ctx at_ .read = .ok key r → isRemote key = false

end Sys2Proof.Claim

/-- Copies, cards and graphs (07 R139-R141; 19 R303-R310, R314; 25 R385): an engine entry into its queue, a descriptor read, the end of a
copy, a card or a graph taken, a copy card started and a completion record on its way. -/
def Obligations.EngineSteps : Prop :=
  ∀ s : State,
    (∀ tk q m t w rest, q ≠ 3 → s.team tk = some m → tget? m.qwait q = some ((t, w) :: rest) → t + 64 ≤ s.dt → s.queueRoom tk q = true →
      ∃ u m', exec (.engineQueuePush tk q) s = .next u ∧ { u with teams := s.teams } = s ∧ u.team tk = some m' ∧
        tget? m'.qwait q = some rest ∧ tget m'.q q [] = tget m.q q [] ++ [clean w] ∧
        { m' with q := m.q, qwait := m.qwait, pushed := m.pushed } = m ∧ ∀ k, k ≠ tk → u.team k = s.team k) ∧
    (∀ cid c g x tk m h gr, s.copies = [(cid, c)] → tget? c.slices g = some x → c.team = some tk → s.team tk = some m → s.descDue c x = true →
      m.shMarked x.offset 64 = false → c.started = false → tget? m.groups h = some gr → tget? c.slices h = none → gr.retired = false →
      gr.liveThreads ≠ [] → tsorted m.groups = true →
      ∃ t x', exec (.copyDescriptorRead cid g) s = .next t ∧ { t with copies := s.copies, ops := s.ops } = s ∧ t.slice cid g = some x' ∧
        { x' with desc := x.desc } = x ∧ ∃ d, x'.desc = some d ∧ Described (mgets m.sh x.offset 64) d) ∧
    (∀ cid c g x d tk m, s.copies = [(cid, c)] → c.slices = [(g, x)] → x.desc = some d → s.sliceDue c x = true → x.comp = 0 →
      d.dspace ≠ 3 → c.team = some tk → s.team tk = some m → (s.core (tk / 16)).rsv = [] →
      ∃ t m', exec (.copySliceComplete cid g) s = .next t ∧ MemSame s t ∧ RegsSame s t ∧ t.copies = [] ∧ t.team tk = some m' ∧
        (let code := if x.status = 2 then 2 else if x.clipped then 1 else 0
         tget m'.qwait 1 [] = tget m.qwait 1 [] ++ [(s.dt, wn (c.num % 2 ^ 16 + code * 2 ^ 16))])) ∧
    (∀ tenant q ring e s1 b, s.takeEntry tenant q ring false = some (e, s1) → e.addr % 64 = 0 → Object s1 e e.addr 512 b →
      Local s1 e.ctx e.addr → s.cards = [] →
      ∃ t c, exec (.cardEnqueue tenant q ring) s = .next t ∧ MemSame s t ∧ t.teams = s.teams ∧ t.cards = [(s.nextId, c)] ∧
        Taken t e none b (cardCheck b) c) ∧
    (∀ tenant q ring e s1 h b, s.takeEntry tenant q ring true = some (e, s1) → e.addr % 64 = 0 → Object s1 e e.addr 16 h →
      (let n := leNat (h.take 2)
       let m := leNat ((h.drop 2).take 2)
       let node (k : Nat) : Nat := leNat ((b.drop (8 * k)).take 8)
       1 ≤ n → n ≤ 4096 → m ≤ 16384 → leNat ((h.drop 4).take 4) = 0 → Object s1 e (e.addr + 16) (8 * n + 4 * m) b →
       ∀ card : Nat → List Byte,
       (∀ k, k < n → node k % 64 = 0 ∧ node k < 2 ^ 56 ∧ Object s1 e (node k) 512 (card k) ∧ Local s1 e.ctx (node k)) →
       ∃ t gr, exec (.graphEnqueue tenant q ring) s = .next t ∧ MemSame s t ∧ t.teams = s.teams ∧ tget? t.graphs s.nextId = some gr ∧
         gr.left = n ∧ gr.nnode = n ∧ gr.cnt = leNat ((h.drop 8).take 8) ∧ gr.queue = q ∧ gr.tenant = tenant ∧
         ∀ k, k < n → ∃ c, tget? t.cards (s.nextId + 1 + k) = some c ∧ c.graph = some s.nextId ∧ c.addr = node k ∧
           (let derived := derivedEdges ((List.range n).map fun k => (node k, .bytes (card k)))
            let cycle := (graphEdges b n m).any (fun x => n ≤ x.1 || n ≤ x.2) || !acyclic n (List.range n) (graphEdges b n m ++ derived)
            c.status = if cycle then 21 else cardCheck (card k)) ∧ (c.status ≠ 0 → c.st = .refused) ∧
           (c.status = 0 → c.st = if c.preds = [] then .ready else .waiting))) ∧
    (∀ id c d, tget? s.cards id = some c → c.body = .copy d → s.cardStartDue id = true → s.copies = [] → d.sspace < 2 → d.dspace < 2 →
      ∃ t cid cp x, exec (.cardStart id) s = .next t ∧ MemSame s t ∧ t.teams = s.teams ∧ tget? t.cards id = some { c with st := .running } ∧
        t.copies = [(cid, cp)] ∧ cp.card = some id ∧ cp.team = none ∧ cp.started = true ∧ cp.slices = [(0, x)] ∧ x.desc = some d) ∧
    (∀ id c key r, tget? s.cards id = some c → c.ending = 1 → c.unread = false → s.roomAt 771 = true →
      (∀ x ∈ s.accs, x.2.owner ≠ .left id) → s.xlateDie 0 c.ctx (c.addr + 48) .write = .ok key r →
      ∃ t a n p, exec (.cardComplete id) s = .next t ∧ MemSame s t ∧ t.teams = s.teams ∧ tget? t.cards id = some { c with ending := 2 } ∧
        tget? t.accs s.nextId = some a ∧ a.kind = .engine ∧ a.src = 771 ∧ a.key = key ∧ a.width = 16 ∧ a.stage = .net n p ∧ s.dt + routeMin 771 key ≤ n ∧
        a.data = leBytes 2 c.status ++ leBytes 2 0 ++ leBytes 4 c.failed ++ leBytes 8 s.dt)

namespace Sys2Proof.Claim

/-- 19 R316: what an entry sends: the elements of its contributions taken together in the order of SRCDEV, each poisoned where one of its
elements is. -/
def Together (op fmt : Nat) (cs : List Contribution) (c : Contribution) : Prop :=
  let g := (collFmt fmt).getD .f32
  let w := g.width / 8
  ∀ n, (∀ x ∈ cs, w * (n + 1) ≤ x.data.length) →
    (let elem (x : Contribution) : Nat := leNat ((x.data.drop (w * n)).take w)
     let bad := cs.any fun x => (List.range w).any fun k => x.poison.contains ((w * n + k) / 4)
     leNat ((c.data.drop (w * n)).take w) =
       if bad then 0 else (cs.drop 1).foldl (fun v x => collOp op g v (elem x)) ((cs.head?.map elem).getD 0) % 2 ^ g.width)

end Sys2Proof.Claim

/-- Collectives (19 R316-R320, R325): a contribution taken, an entry run and its result kept for its receiver, watchdogs, abort and counter
queries. The abort clause holds a choice of the model: no event tells of an abort, and the instance is no longer active (log 68). -/
def Obligations.CollectiveSteps : Prop :=
  ∀ s : State,
    (∀ k i x, s.msgs = [] → s.sending = [] → tget? s.insts k = some i → tget? i.entries s.input.msg.entry = some x →
      (let c := s.input.msg
       s.receiver c = some (k, i) → s.peerUp c.sender = true →
        (∀ j, x.placeOf c.sender = some j → c.data.length = x.len → (x.st = .armed ∨ x.st = .fired) →
          ∃ t, exec .collectiveContribution s = .next t ∧ { t with insts := s.insts } = s ∧
            t.centry k c.entry = some { x with contribs := tset x.contribs j c, ready := s.dt }) ∧
        (x.placeOf c.sender = none → ∃ t, exec .collectiveContribution s = .next t ∧ MemSame s t ∧ t.teams = s.teams ∧ t.msgs = [] ∧
          t.centry k c.entry = some { x with proto := true }))) ∧
    (s.receiver s.input.msg = none → s.peerUp s.input.msg.sender = true → s.msgs = [] → s.sending = [] →
      exec .collectiveContribution s = .next { s with msgs := [s.input.msg] }) ∧
    (∀ k e i x, s.inst k = some i → s.centry k e = some x → s.runDue k e = true → x.laddr = 0 → x.write = false → x.send = true →
      x.proto = false → x.contribs ≠ [] → (∀ p ∈ x.contribs, p.2.data.length = x.len) →
      ∃ t c x', exec (.collectiveEntryRun k e) s = .next t ∧ MemSame s t ∧ t.teams = s.teams ∧
        t.outbox = s.outbox ∧ t.sending = s.sending ++ [{ dt := s.dt, die := i.die, ctx := i.ctx, peer := x.peer, msg := c }] ∧
        c.collid = i.collid ∧ c.entry = x.pidx ∧ c.sender = s.devno ∧ c.cid = x.cid ∧
        (let w := ((collFmt x.fmt).getD .f32).width / 8
         c.data.length = x.len / w * w) ∧
        Together x.op x.fmt (x.contribs.map (·.2)) c ∧ t.centry k e = some x' ∧ x'.st = .writing ∧ x'.contribs = []) ∧
    (∀ k e i x u tk, s.inst k = some i → s.centry k e = some x → s.entryLate k e = true → i.team = some u → s.teamAt u.uid = some tk →
      (s.ctx i.ctx).events.length < 64 →
      ∃ t, exec (.collectiveTimeout k e) s = .next t ∧ MemSame s t ∧ t.teams = s.teams ∧ t.centry k e = some { x with timedOut := true } ∧
        (t.ctx i.ctx).events = (s.ctx i.ctx).events ++ [(u.uid, wn (i.collid.toNat % 2 ^ 16 + 4 * 2 ^ 16 + e % 256 * 2 ^ 24), s.dt)]) ∧
    (∀ i, s.inst s.input.id = some i → i.active = true → i.card = none →
      ∃ t, exec .collectiveAbort s = .next t ∧ { t with insts := s.insts, sources := s.sources } = s ∧
        t.inst s.input.id = some { i with active := false, aborted := false, entries := i.entries.map fun (e, x) =>
          (e, if x.st = .done then x else { x with st := .failed, contribs := [], held := none }) }) ∧
    ((∀ x ∈ s.insts, x.2.collid ≠ s.input.value.setWidth 32) → s.peerUp s.input.peer = true → ∃ t, exec .counterQuery s = .next t ∧
      { t with nextId := s.nextId, rearms := s.rearms, outbox := s.outbox } = s ∧ tget? t.rearms s.nextId = none ∧
      t.outbox = s.outbox ++ [.counterAnswer s.input.cid s.input.peer (some 0)]) ∧
    (∀ k i b, s.insts = [(k, i)] → i.collid = s.input.value.setWidth 32 → s.peerUp s.input.peer = true →
      s.readObj (collSrc i.die) i.die i.ctx i.cnt 8 = .bytes b →
      ∃ t, exec .counterQuery s = .next t ∧ { t with nextId := s.nextId, rearms := s.rearms, outbox := s.outbox } = s ∧
        t.outbox = s.outbox ++ [.counterAnswer s.input.cid s.input.peer (some (BitVec.ofNat 64 (leNat b)))]) ∧
    (s.peerUp s.input.peer = false → exec .counterQuery s = .next s ∧ exec .counterQueryAnswer s = .next s) ∧
    (∀ r p, tget? s.rearms s.input.id = some r → s.input.peer ∈ r.wait → p ∈ r.wait → p ≠ s.input.peer → s.peerUp s.input.peer = true →
      exec .counterQueryAnswer s = .next { s with rearms := tset s.rearms s.input.id { r with
        wait := r.wait.filter (· ≠ s.input.peer), low := r.low || s.input.flag || decide (s.input.value.toNat < r.v.toNat) } }) ∧
    (∀ id peer r p, tget? s.rearms id = some r → peer ∈ r.wait → r.start + 2 ^ 20 ≤ s.dt → p ∈ r.wait → p ≠ peer →
      ∃ t, exec (.counterQueryTimeout id peer) s = .next t ∧ { t with rearms := s.rearms } = s ∧
        tget? t.rearms id = some { r with wait := r.wait.filter (· ≠ peer), low := true })

/-! The world outside. -/

namespace Sys2Proof.Claim

/-- No access from outside waits, and the lines of a run of bytes have taken no write in this tick and hold no access that has arrived and is
still to be performed. -/
def Quiet (s : State) (key n : Nat) : Prop :=
  s.deferred = [] ∧ ∀ a, key ≤ a → a < key + max 1 n → (s.line (a / 128)).lastWrite ≠ some s.dt ∧
    ∀ x ∈ s.accs, x.2.key / 128 = a / 128 → ∀ k p, x.2.stage = .net k p → s.dt < k
/-- Quiet lines that no open accumulator holds. -/
def Closed (s : State) (key n : Nat) : Prop := Quiet s key n ∧ ∀ a, key ≤ a → a < key + max 1 n → (s.line (a / 128)).acc = none

end Sys2Proof.Claim

/-- Registers (00 R11; 07 R119, R123; 21 R341; 23 R359, R360, R372; 25 R394; 29 R420-R422): leases, rings, the fault queue, ageing, the
interrupt mask, and what a register reads as after it is written, of the values that the spec gives it. Four clauses hold choices of the model:
a value of steps above 12 is taken as 12 and UNLOCK is judged as it stood (log 78), a register of the firmware ignores a write while none runs
(log 112), FQBASE places the queue by its low 48 bits (log 53), and the management core writes fault records and interrupt messages, the former
in one step with FQHEAD (log 93). -/
def Obligations.RegisterSteps : Prop :=
  ∀ s : State,
    (let v := s.input.value
     let w : Word := v.setWidth 32
     let tn := s.input.tenant
     let qn := s.input.q
     let x := s.queue tn qn
     let queueBecomes (i : Instr) (y : LQueue) : Prop := ∃ t, exec i s = .next t ∧ { t with tenants := s.tenants } = s ∧ t.queue tn qn = y ∧
       ∀ k n, (k, n) ≠ (tn, qn) → t.queue k n = s.queue k n
     let c := s.ctx s.input.ctx
     let k := s.cluster s.input.cluster
     let steps := min 12 (v.toNat % 16)
     exec .leasectlWrite s = .next { s with llhbm := min 4096 (max 64 (v.toNat % 2 ^ 13))
                                            llhost := min 4096 (max 64 (v.toNat / 2 ^ 16 % 2 ^ 13)) } ∧
     ((w - x.head).toNat ≤ x.size.toNat → queueBecomes .qtailDoorbell { x with tail := w }) ∧
     (x.size.toNat < (w - x.head).toNat →
       queueBecomes .qtailDoorbell { x with bad := wn (min (2 ^ 32 - 1) (x.bad.toNat + 1)) }) ∧
     queueBecomes .qbaseWrite { x with base := v, bad := 0 } ∧
     (c.fqwait = [] → ∃ t, exec .fqtailWrite s = .next t ∧ { t with ctxs := s.ctxs } = s ∧ t.ctx s.input.ctx = { c with fqtail := w } ∧
       ∀ n, n ≠ s.input.ctx → t.ctx n = s.ctx n) ∧
     (∀ r, c.fqwait = [r] → c.fqsize ≠ 0 → c.fqhead - w ≠ c.fqsize → (s.tenant c.tenant).mask.getLsbD 16 = true →
       Closed s (c.fqbase.toNat % 2 ^ 48 + 64 * (c.fqhead.toNat % c.fqsize.toNat)) 64 →
       ∃ t, exec .fqtailWrite s = .next t ∧ RegsSame s t ∧
         Stored s t (c.fqbase.toNat % 2 ^ 48 + 64 * (c.fqhead.toNat % c.fqsize.toNat)) (r.body ++ leBytes 8 0) ∧
         (t.ctx s.input.ctx).fqwait = [] ∧ (t.ctx s.input.ctx).fqhead = c.fqhead + 1 ∧ (t.ctx s.input.ctx).fqtail = w ∧
         (t.tenant c.tenant).pend.getLsbD 16 = true) ∧
     (∃ t, exec .agectlWrite s = .next t ∧ { t with clusters := s.clusters } = s ∧ (∀ n, n ≠ s.input.cluster → t.cluster n = s.cluster n) ∧
       t.cluster s.input.cluster = { k with
         pending := if k.steps < steps ∨ (steps < k.steps ∧ k.unlock = true) then some steps else k.pending
         unlock := decide ¬(steps < k.steps ∧ k.unlock = true) && v.getLsbD 4
         retreq := k.retreq && !v.getLsbD 5 }) ∧
     ((s.tenant tn).addr = 0 → ∃ t, exec .irqmaskWrite s = .next t ∧ { t with tenants := s.tenants } = s ∧
       t.tenant tn = { s.tenant tn with mask := w } ∧ ∀ n, n ≠ tn → t.tenant n = s.tenant n) ∧
     (∀ b, (s.tenant tn).addr ≠ 0 → (∀ n, n < 32 → (((s.tenant tn).pend.getLsbD n = true ∧ (s.tenant tn).mask.getLsbD n = true ∧
         w.getLsbD n = false) ↔ n = b)) → b < 32 →
       ∃ t id a n p cid, exec .irqmaskWrite s = .next t ∧ MemSame s t ∧ t.teams = s.teams ∧ tget? t.accs id = some a ∧ a.kind = .engine ∧
         a.src = 768 ∧ a.key = 2 ^ 48 + (s.tenant tn).addr.toNat % 2 ^ 48 ∧ a.data = leBytes 4 ((s.tenant tn).data + wn b).toNat ∧
         a.stage = .net n p ∧ s.dt + routeMin 768 a.key ≤ n ∧
         t.tenant tn = { s.tenant tn with mask := w } ∧ t.outbox = s.outbox ++ [.irq cid (s.tenant tn).addr.toNat ((s.tenant tn).data + wn b)]) ∧
     ((match s.input.reg with
        | .dentry c => c < 288 ∧ s.fwRunning = true
        | .draint => 1200 ≤ v.toNat ∧ v.toNat ≤ 2 ^ 24
        | .spsize => v.toNat % 2 ^ 21 = 0 ∧ v.toNat ≤ 2 ^ 26
        | .root _ | .invva _ | .fqbase _ | .qbase _ _ | .irqAddr _ | .pwrcap | .dskew => True
        | .peer _ n => n < 256 ∧ s.fwRunning = true
        | _ => False) →
       ∃ t, exec .registerWrite s = .next t ∧ MemSame s t ∧ t.teams = s.teams ∧ t.readReg s.input.reg = v) ∧
     ((match s.input.reg with
        | .ready | .failed | .corrected _ | .fqhead _ | .fqdrop _ | .qhead _ _ | .qbad _ _ => True
        | .dentry c => s.fwRunning = false ∨ 288 ≤ c
        | .peer _ _ | .grant _ _ => s.fwRunning = false
        | _ => False) →
       exec .registerWrite s = .next s) ∧
     (∀ n, s.input.reg = .irqPending n → ∃ t, exec .registerWrite s = .next t ∧ { t with tenants := s.tenants } = s ∧
       t.tenant n = { s.tenant n with pend := (s.tenant n).pend &&& ~~~w }))

/-- Accesses from outside (07 R123, R126, R127, R141, R144; 25 R395; 27 R403; 29 R417-R419, R424, R427): the host reads and writes bytes, registers and
windows; another device reads, writes, adds and performs atomics on the frames it is granted, and nothing else, with its own causal id, a lease
for what it reads, and an acknowledgement with GWCT; the dirty bitmap is fetched and cleared. Three points are the model's choice: an access that
touches an open accumulator or poison is refused with cause 16 or 17 (log 74), an offset of a window that names no register reads 0 and ignores
writes (log 83), and a host address from 768 GiB up is memory as any other (log 109). -/
def Obligations.AccessesFromOutside : Prop :=
  ∀ s : State,
    (let at_ (host : Bool) (pa : Nat) : Nat := if host then 2 ^ 48 + pa else pa
     let answers (i : Instr) (m : OutMsg) : Prop := exec i s = .next { s with outbox := s.outbox ++ [m] }
     let cid := s.input.cid
     let src := peerSrc s.input.peer s.input.core
     (s.readyReg.getLsbD 10 = true →
       (∀ host pa n, s.input.hostOp = .load host pa n → pa + n ≤ 2 ^ 48 → Closed s (at_ host pa) n →
         answers .hostAccess (if s.anyMarked (at_ host pa) n then .refused cid 17 else .bytes cid (mgets s.mem (at_ host pa) n) 0)) ∧
       (∀ host pa l, s.input.hostOp = .store host pa l → pa + l.length ≤ 2 ^ 48 → Closed s (at_ host pa) l.length →
         ∃ t, exec .hostAccess s = .next t ∧ Stored s t (at_ host pa) l ∧ RegsSame s t) ∧
       (∀ host pa l, s.input.hostOp = .store host pa l → l ≠ [] → pa < 2 ^ 48 → Quiet s (at_ host pa) l.length →
         (s.line (at_ host pa / 128)).acc ≠ none → answers .hostAccess (.refused cid 16)) ∧
       (s.deferred = [] →
         (∀ r, s.input.hostOp = .readReg r → answers .hostAccess (.bytes cid (leBytes 8 (s.readReg r).toNat) 0)) ∧
         (∀ n off, s.input.hostOp = .readWindow n off → 0x2000 ≤ off → off < 0x10000 → answers .hostAccess (.bytes cid [0, 0, 0, 0] 0)) ∧
         (∀ n v, s.input.hostOp = .writeWindow n 0x1014 v → exec .hostAccess s = .next s))) ∧
     (s.readyReg.getLsbD 10 = false → exec .hostAccess s = .next s) ∧
     (s.readyReg.getLsbD 11 = false → exec .remoteAccess s = .next s) ∧
     (∀ id a, tget? s.accs id = some a → s.ackDue a = true → isPeer a.src = true → exec (.acknowledgement id) s =
       .next { s.dropAcc id a with outbox := s.outbox ++ [.done a.cid a.gwct a.value] }) ∧
     (s.readyReg.getLsbD 11 = true →
      let ok (pa n : Nat) : Prop := pa + n ≤ 768 * 2 ^ 30 ∧ ∀ f, pa / 4096 ≤ f → f < (pa + n + 4095) / 4096 →
        (s.input.peer, s.input.tenant, f) ∈ s.grants
      (∀ pa n, s.input.remoteOp = .load pa n →
        (¬ ok pa n → answers .remoteAccess (.refused cid 11)) ∧
        (ok pa n → Closed s pa n → s.anyMarked pa n = false → ∃ t, exec .remoteAccess s = .next t ∧ MemSame s t ∧ t.teams = s.teams ∧
          t.outbox = s.outbox ++ [.bytes cid (mgets s.mem pa n) (s.dt + s.llhbm)] ∧
          ∀ a, pa ≤ a → a < pa + n → s.dt + s.llhbm ≤ (t.line (a / 128)).maxLE)) ∧
      (∀ pa l, s.input.remoteOp = .store pa l →
        (¬ ok pa l.length → answers .remoteAccess (.refused cid 11)) ∧
        (ok pa l.length → Closed s pa l.length → ∃ t, exec .remoteAccess s = .next t ∧ Stored s t pa l ∧ RegsSame s t ∧
          ∀ a, pa ≤ a → a < pa + l.length → tget? (t.line (a / 128)).owners (a % 128 / 4) = some src ∧
            ∃ id x, tget? t.accs id = some x ∧ x.src = src ∧ x.cid = cid ∧ x.key / 128 = a / 128 ∧ Performed t id)) ∧
      (∀ pa v, s.input.remoteOp = .add pa v →
        (¬ ok pa 8 → answers .remoteAccess (.refused cid 11)) ∧
        (ok pa 8 → Closed s pa 8 → s.anyMarked pa 8 = false →
          ∃ t, exec .remoteAccess s = .next t ∧ Stored s t pa (leBytes 8 (leNat (mgets s.mem pa 8) + v.toNat)) ∧ RegsSame s t)) ∧
      (∀ k op pa w c cmp, s.input.remoteOp = .atom k pa w c cmp →
        [AtomOp.add, .min, .max, .and, .or, .xor, .xchg, .cas, .fadd, .fmin, .fmax][k]? = some op →
        (¬ ok pa w → answers .remoteAccess (.refused cid 11)) ∧
        (ok pa w → Closed s pa w → s.anyMarked pa w = false → w = 4 ∨ w = 8 →
          ∃ t id x, exec .remoteAccess s = .next t ∧ RegsSame s t ∧ Performed t id ∧ tget? t.accs id = some x ∧ x.src = src ∧ x.cid = cid ∧
            x.value = mgets s.mem pa w ∧
            match atomWrites op (8 * w) (leNat (mgets s.mem pa w)) (leNat (leBytes w c)) (leNat (leBytes w cmp)) with
            | some v => Stored s t pa (leBytes w v)
            | none => MemSame s t))) ∧
     ((∀ e ∈ s.ctxs, e.2.migr.state ≠ 1 ∧ e.2.migr.state ≠ 2) →
       ∃ t v, exec .dirtyBitmapFetchClear s = .next t ∧ { t with dirty := s.dirty, outbox := s.outbox } = s ∧
         t.dirty = s.dirty.filter (fun f => f / 64 ≠ s.input.addr) ∧ t.outbox = s.outbox ++ [.bitmap s.input.addr v] ∧
         ∀ k, k < 64 → v.getLsbD k = decide (64 * s.input.addr + k ∈ s.dirty)))

namespace Sys2Proof.Claim

/-- A team under a park of accesses that holds one access of it, and nothing else under way in the device (23 R365). -/
structure OnePark (s : State) (tk g id : Nat) (m : Team) (gr : Group) (p : Park) (a : Access) : Prop where
  team : s.teams = [(tk, m)]
  group : m.groups = [(g, gr)]
  park : gr.parks = [p]
  kind : p.kind = .access
  acc : s.accs = [(id, a)]
  stage : a.stage = .parked p.id
  mine : a.tk = tk ∧ a.g = g ∧ a.src = tk / 16 ∧ a.ctx = m.ctx ∧ a.save = none ∧ a.limb = none
  still : ∀ e ∈ gr.th, e.2.waiting = false
  returns : gr.returns = []
  ctx : m.ctx = s.input.ctx
  pid : p.id = s.input.id % 2 ^ 16
/-- The RESOLVE register keeps what was written (23 R366). -/
def Resolved (s t : State) (act : Nat) : Prop := (t.ctx s.input.ctx).resolve = wn (s.input.id % 2 ^ 16 + 2 ^ 16 * act)
/-- 23 R357: does a cached translation of a context overlap some pages? -/
def InPages (cx first pages : Nat) (all : Bool) (e : TlbE) : Prop :=
  e.ctx = cx ∧ (all = true ∨ (first < (e.page + 1) * 2 ^ (9 * e.level) ∧ e.page * 2 ^ (9 * e.level) < first + pages))
/-- No park holds anything of the device (23 R365). -/
def NoParks (s : State) : Prop :=
  (∀ e ∈ s.teams, ∀ x ∈ e.2.groups, x.2.parks = []) ∧ s.saves = [] ∧ (∀ c ∈ s.copies, ∀ x ∈ c.2.slices, x.2.held = none) ∧
    (∀ a ∈ s.accs, ∀ p, a.2.stage ≠ .parked p) ∧ (∀ i ∈ s.insts, ∀ x ∈ i.2.entries, x.2.held = none) ∧ (∀ c ∈ s.cards, c.2.held = none) ∧
    (∀ e ∈ s.enqs, e.park = none) ∧ ∀ r ∈ s.rearms, r.2.park = none
/-- No cached translation of some pages is left (23 R361), and no line of an instruction cache. -/
def Dropped (t : State) (cx first pages : Nat) (all : Bool) : Prop :=
  (∀ c, ∀ l ∈ (t.core c).icache, l.ctx = cx → all = false ∧ ¬(first ≤ l.line / 32 ∧ l.line / 32 < first + pages)) ∧
  (∀ c e, e ∈ (t.core c).tlb → ¬ InPages cx first pages all e) ∧ (∀ c l e, (l, e) ∈ (t.core c).lastPage → ¬ InPages cx first pages all e) ∧
  ∀ d e, e ∈ tget t.dieTlb d [] → ¬ InPages cx first pages all e
/-- What a record of 64 bytes holds (27 R399; 23 R371). -/
def Laid (b : List Byte) (r : Rec) (src : Nat) : Prop :=
  let n (o k : Nat) : Nat := leNat ((b.drop o).take k)
  b.length = 64 ∧ n 0 4 = r.b0 % 2 ^ 32 ∧ n 4 4 = r.launchid.toNat ∧ n 8 4 = r.x.toNat ∧ n 12 4 = r.y.toNat ∧ n 16 4 = r.z.toNat ∧
    n 20 2 = r.thread % 2 ^ 16 ∧ n 22 2 = r.core % 2 ^ 16 ∧ n 24 8 = r.f24 % 2 ^ 64 ∧ n 32 8 = r.f32 % 2 ^ 64 ∧ n 40 8 = r.dt % 2 ^ 64 ∧
    n 48 8 = r.f48 % 2 ^ 64 ∧ n 56 2 = r.typ % 2 ^ 16 ∧ n 58 2 = src % 2 ^ 16 ∧ n 60 2 = r.seq % 2 ^ 16 ∧ n 62 1 = r.flags % 2 ^ 8

end Sys2Proof.Claim

/-- Invalidations, parks resolved (23 R357, R359-R366), records stored (23 R371, R372; 27 R398, R399) and snapshots (27 R405). These are the
model's choices: a completed invalidation sets INVAL and FAULT both (log 33), a refused write leaves INVCTL and ROOT is taken at the start of a
command with ALL (log 71), FQBASE counts modulo 2^48 (log 53), and a fault-queue entry is performed in one step with the advance of FQHEAD
(log 93). -/
def Obligations.FaultAndRecorderSteps : Prop :=
  ∀ s : State,
    (let cx := s.input.ctx
     let c := s.ctx cx
     let v := s.input.value.toNat
     let first := c.invva.toNat / 4096
     ((c.inv ≠ none ∨ (v % 2 ^ 32 = 0 ∧ v.testBit 32 = false)) → ∀ i, i = .invalidate ∨ i = .moveInvalidate →
       ∃ t, exec i s = .next t ∧ { t with ctxs := s.ctxs } = s ∧ t.ctx cx = { c with refused := true }) ∧
     (c.inv = none → (v % 2 ^ 32 ≠ 0 ∨ v.testBit 32 = true) → ∀ i mv, (i, mv) = (Instr.invalidate, false) ∨ (i, mv) = (.moveInvalidate, true) →
       ∃ t x, exec i s = .next t ∧ { t with cores := s.cores, dieTlb := s.dieTlb, ctxs := s.ctxs } = s ∧ (t.ctx cx).inv = some x ∧
         x.first = first ∧ x.pages = v % 2 ^ 32 ∧ x.all = v.testBit 32 ∧ x.move = mv ∧
         (t.ctx cx).root = (if v.testBit 32 then c.rootReg else c.root) ∧ Dropped t cx first (v % 2 ^ 32) (v.testBit 32)) ∧
     (∀ x, c.inv = some x → s.invDue cx = true → (x.move = true ∨ (NoParks s ∧ c.moving = [])) →
       (s.tenant c.tenant).mask.getLsbD 16 = true → (s.tenant c.tenant).mask.getLsbD 17 = true →
       ∃ t, exec (.invalidationDone cx) s = .next t ∧ MemSame s t ∧ t.teams = s.teams ∧ (t.ctx cx).inv = none ∧ (t.ctx cx).done = true ∧
         (t.ctx cx).invseq = (c.invseq + 1) % 2 ^ 16 ∧ (t.tenant c.tenant).pend.getLsbD 16 = true ∧
         (t.tenant c.tenant).pend.getLsbD 17 = true ∧ Dropped t cx x.first x.pages x.all ∧
         (x.move = true → ∀ p l e, p < 2 ^ 44 → (x.all = true ∨ (x.first ≤ p ∧ p < x.first + x.pages)) →
           s.walkFrom (4096 * p) 4 c.root.toNat = .ok (l, e) → ∀ n, n / 32 = leafKey s.devno e l (4096 * p) / 4096 →
             (t.line n).owners = [] ∧ (t.line n).maxLE = 0 ∧ ∀ k, tget? (t.core k).l1 n = none)) ∧
     (∀ tk g id m gr p a l, OnePark s tk g id m gr p a → a.lanes = [l] → a.isLoad = true → a.space = .g →
       (∀ key, a.va < 2 ^ 56 → a.va % a.width = 0 → AtHand s (tk / 16) (laneOf g l) m.ctx a.va .read key →
         ∃ t x, exec .resolveReplay s = .next t ∧ Resolved s t 0 ∧ MemSame s t ∧ RegsSame s t ∧ (t.group tk g).map (·.parks) = some [] ∧
           tget? t.accs id = some x ∧ x.stage = .core ∧ x.key = key ∧ x.va = a.va) ∧
       (∀ d, Waits s a l d → ∃ t, exec .resolveFail s = .next t ∧ Resolved s t 1 ∧ (t.group tk g).map (·.parks) = some [] ∧ t.accs = [] ∧
         Given s t a l d [] true) ∧
       (tsorted gr.th = true →
         ∃ t, exec .resolveKill s = .next t ∧ Resolved s t 2 ∧ AllExited s t tk m ∧ (t.team tk).map (·.failed) = some true ∧
           (t.group tk g).map (·.parks) = some []))) ∧
    (∀ src x r rest, tget? s.sources src = some x → x.buf = r :: rest → s.storeDue src = true →
      (let key := 4096 + 64 * (s.windex % Config.nslot)
       let stored (t : State) : Prop := t.windex = s.windex + 1 ∧ (∃ l, (tget? t.sources src).map (·.buf) = some (rest ++ l)) ∧
         (∃ b, Laid b r src ∧ ∀ k, k < 64 → mget t.trace (key + k) = b.getD k 0) ∧
         ∀ a, ¬(key ≤ a ∧ a < key + 64) → mget t.trace a = mget s.trace a
       ((r.typ ≠ 0 ∨ r.ctx = none) → ∃ t, exec (.traceRecordStore src) s = .next t ∧ stored t ∧ MemSame s t ∧
           tget? t.sources src = some { x with buf := rest } ∧ t.teams = s.teams) ∧
       (∀ cx, r.typ = 0 → r.ctx = some cx → (s.ctx cx).fqsize ≠ 0 → (s.ctx cx).fqhead - (s.ctx cx).fqtail ≠ (s.ctx cx).fqsize →
         (s.ctx cx).fqwait = [] → (s.tenant (s.ctx cx).tenant).mask.getLsbD 16 = true →
         Closed s ((s.ctx cx).fqbase.toNat % 2 ^ 48 + 64 * ((s.ctx cx).fqhead.toNat % (s.ctx cx).fqsize.toNat)) 64 →
         ∃ t, exec (.traceRecordStore src) s = .next t ∧ stored t ∧ RegsSame s t ∧ (t.ctx cx).fqhead = (s.ctx cx).fqhead + 1 ∧
           Stored s t ((s.ctx cx).fqbase.toNat % 2 ^ 48 + 64 * ((s.ctx cx).fqhead.toNat % (s.ctx cx).fqsize.toNat)) (r.body ++ leBytes 8 0)) ∧
       (∀ cx, r.typ = 0 → r.ctx = some cx → ((s.ctx cx).fqsize = 0 ∨ (s.ctx cx).fqhead - (s.ctx cx).fqtail = (s.ctx cx).fqsize) →
         ∃ t, exec (.traceRecordStore src) s = .next t ∧ stored t ∧ MemSame s t ∧ t.teams = s.teams ∧
           (∀ n, n ≠ cx → t.ctx n = s.ctx n) ∧
           t.ctx cx = (if r.b0 / 256 % 256 = 0 ∨ r.b0 / 256 % 256 = 5 then { s.ctx cx with fqwait := (s.ctx cx).fqwait ++ [r] }
             else { s.ctx cx with fqdrop := (s.ctx cx).fqdrop + 1 })))) ∧
    (let v := s.input.value
     exec .snapshotRequest s = .next (if s.snapPend = true ∨ v.toNat < s.dt + 1200 then { s with snapRefused := true }
       else { s with snapdt := v, snapPend := true, snapTaken := false, outbox := s.outbox ++ [.snapshot s.input.cid v] }) ∧
     exec .snapshotForwardReceived s = .next { s with snapdt := v, snapPend := true, snapTaken := false }) ∧
    (s.snapDue = true → (∃ t, exec .snapshotTake s = .next t ∧ { t with sources := s.sources, snapTaken := false } = { s with snapTaken := false } ∧
      t.snapTaken = true) ∧
      ∀ w r x, s.currentWaits = [w] → w.recs = [r] → tget? s.sources w.src = some x → x.buf.length < 256 → x.drops = 0 →
        ∃ t, exec .snapshotTake s = .next t ∧ tget? t.sources w.src = some { x with
          buf := x.buf ++ [{ r with typ := 1, dt := s.dt, flags := r.flags ||| 8, seq := x.seq % 2 ^ 16 }], seq := (x.seq + 1) % 2 ^ 16 }) ∧
    (s.snapEndDue = true → ∃ t, exec .snapshotEnd s = .next t ∧ { t with sources := s.sources, snapPend := true } = { s with snapPend := true, snapTaken := false } ∧
      t.snapPend = false)

namespace Sys2Proof.Claim

/-- The 64 bytes of a mailbox record (27 R410). -/
def Popped (b : List Byte) (r : MRec) : Prop :=
  let n (o k : Nat) : Nat := leNat ((b.drop o).take k)
  b.length = 64 ∧ n 0 1 = r.kind % 2 ^ 8 ∧ n 1 1 = r.g % 2 ^ 8 ∧ n 2 2 = r.core % 2 ^ 16 ∧ n 4 4 = r.launchid.toNat ∧ n 8 4 = r.x.toNat ∧
    n 12 4 = r.y.toNat ∧ n 16 4 = r.z.toNat ∧ n 20 4 = r.mask.toNat ∧ n 24 4 = r.mask2.toNat ∧ n 28 4 = r.value.toNat ∧
    n 32 8 = r.pc % 2 ^ 64 ∧ n 40 8 = r.dt % 2 ^ 64 ∧ n 48 2 = r.ctx % 2 ^ 16 ∧ n 50 14 = 0
/-- A debugger command has reached the threads that it names (27 R412; 13 R238, R240). -/
def Reached (s t : State) (tk : Nat) (m : Team) (new : Nat → Group → Nat → Thread → Thread) : Prop :=
  MemSame s t ∧ RegsSame s t ∧ (∀ k, k ≠ tk → t.team k = s.team k) ∧ t.outbox = s.outbox ++ [.debugStatus 0] ∧
  ∀ h gr n, tget? m.groups h = some gr → t.thread tk h n = (tget? gr.th n).map fun th =>
    if h < 16 ∧ s.input.target.groups.getLsbD h = true ∧ n < 32 ∧ s.input.target.lanes.getLsbD n = true ∧ th.st ≠ .exited
    then new h gr n th else th
/-- A team is the one that a command names (27 R412). -/
def IsTarget (m : Team) (x : DebugTarget) : Prop := m.ctx = x.ctx ∧ m.launchid = x.launch ∧ m.x = x.tx ∧ m.y = x.ty ∧ m.z = x.tz

end Sys2Proof.Claim

/-- The debugger's path (27 R410-R412; 22 R347) and injection (15 R281), in every state: a mailbox record popped; halts, resumes and steps
of the threads named, with their status; and a byte of a range changed by a mask. -/
def Obligations.DebuggerSteps : Prop :=
  ∀ s : State,
    (let n := s.input.core
     ∃ t, exec .mboxPop s = .next t ∧ { t with cores := s.cores, outbox := s.outbox } = s ∧
       (∃ b, Popped b ((s.core n).mbox.headD { kind := 0 }) ∧ t.outbox = s.outbox ++ [.mailbox b]) ∧ (t.core n) = { s.core n with mbox := (s.core n).mbox.tail } ∧
       ∀ c, c ≠ n → t.core c = s.core c) ∧
    (∀ i, i = .debugHalt ∨ i = .debugResume ∨ i = .debugStep →
      ∃ t n, exec i s = .next t ∧ MemSame s t ∧ n ≤ 2 ∧ t.outbox.getLast? = some (.debugStatus n)) ∧
    (∀ tk m, s.team tk = some m → IsTarget m s.input.target → (∀ e ∈ s.teams, IsTarget e.2 s.input.target → e.1 = tk) →
      (∀ h gr, tget? m.groups h = some gr → gr.limbs = none ∧ tsorted gr.th = true ∧ ∀ n, 32 ≤ n → tget? gr.th n = none) →
      (∃ t, exec .debugHalt s = .next t ∧ Reached s t tk m fun h gr n th => if th.halted ∨ th.haltPend then th
        else if th.st = .ready ∧ gr.parks = [] ∧ (∃ j ∈ s.issues, j.tk = tk ∧ j.g = h ∧ n ∈ j.cand) then { th with haltPend := true }
        else { th with halted := true }) ∧
      ((∀ h gr n th, tget? m.groups h = some gr → tget? gr.th n = some th → th.waiting = false) →
        ∃ t, exec .debugResume s = .next t ∧ Reached s t tk m fun _ _ _ th =>
          if th.halted ∨ th.haltPend then { th with haltPend := false, halted := false } else th) ∧
      (∃ t, exec .debugStep s = .next t ∧ Reached s t tk m fun _ gr _ th =>
        if th.halted = true ∧ th.st = .ready ∧ th.held = [] ∧ gr.parks = [] then { th with halted := false, step := true } else th)) ∧
    (∀ i, i = .debugHalt ∨ i = .debugResume ∨ i = .debugStep → (∀ e ∈ s.teams, ¬ IsTarget e.2 s.input.target) →
      ((∀ e ∈ s.saves, e.2.refused = false → ¬ IsTarget e.2.team s.input.target) →
        exec i s = .next { s with outbox := s.outbox ++ [.debugStatus 2] }) ∧
      (∀ k v, tget? s.saves k = some v → v.refused = false → IsTarget v.team s.input.target →
        (∀ e ∈ s.saves, e.2.refused = false → IsTarget e.2.team s.input.target → e.1 = k) →
        ∃ t c, exec i s = .next t ∧ MemSame s t ∧ t.teams = s.teams ∧
        t.outbox = s.outbox ++ [.debugStatus 1] ∧ tget? t.saves k = some { v with cmds := v.cmds ++ [(c, s.input.target)] } ∧
        ((i, c) = (Instr.debugHalt, 0) ∨ (i, c) = (.debugResume, 1) ∨ (i, c) = (.debugStep, 2)))) ∧
    (let r := s.range s.input.tk s.input.id
     (∀ m, s.team s.input.tk = some m → s.input.addr < 512 * r.gran → ∃ t, exec .tsInjection s = .next t ∧ MemSame s t ∧ RegsSame s t ∧
         (∀ k, k ≠ s.input.tk → t.team k = s.team k) ∧ (t.range s.input.tk s.input.id).record = r.record ∧
         (t.range s.input.tk s.input.id).side = r.side ∧
         mget (t.range s.input.tk s.input.id).bytes s.input.addr = mget r.bytes s.input.addr ^^^ s.input.mask ∧
         ∀ a, a ≠ s.input.addr → mget (t.range s.input.tk s.input.id).bytes a = mget r.bytes a) ∧
     (s.team s.input.tk = none ∨ 512 * r.gran ≤ s.input.addr → exec .tsInjection s = .next s))

namespace Sys2Proof.Claim

/-- The threads of a core's resident groups on a lane of a slice are Exited (25 R384, R389). -/
def LaneKilled (s t : State) (c k n : Nat) : Prop :=
  ∀ tk m g gr th, s.team tk = some m → tk / 16 = c → tk < 4608 → tget? m.groups g = some gr → g % 4 = k / 8 → gr.retired = false →
    tget? gr.th (4 * (k % 8) + n) = some th → (t.thread tk g (4 * (k % 8) + n)).map (·.st) = some .exited

/-- What a report asks for besides the replay, of each region of a core but the array, where there is nothing to replay (25 R384, R387, R388). -/
def RegionSteps : Prop :=
  ∀ s : State, tget s.checks s.input.core [] = [] → s.recent = [] →
    (let c := s.input.core
     let x (k : Nat) : SliceSt := s.sliceSt c k
     let stopped : Core := { s.core c with stop := s.dt + s.cycles c 24 }
     let only (k : Core) : Prop := ∃ t, exec .strikeReport s = .next t ∧ { t with cores := s.cores } = s ∧ t.core c = k ∧
       ∀ d, d ≠ c → t.core d = s.core d
     let kills (P : State → Prop) : Prop := ∃ t, exec .strikeReport s = .next t ∧ MemSame s t ∧ RegsSame s t ∧ P t
     (∀ k n, s.input.region = .lane k n → (x k).spused = false → n < 4 →
       ∃ t, exec .strikeReport s = .next t ∧ MemSame s t ∧ RegsSame s t ∧
         tget t.corrected (1024 + c) 0 = tget s.corrected (1024 + c) 0 + 1 ∧
         (let again := ∃ e ∈ (x k).rebuilds, e.1 = n ∧ s.dt < e.2 + 2 ^ 30
          t.sliceSt c k = { x k with stop := s.dt + s.cycles c 128, rbcnt := min 255 ((x k).rbcnt + 1), rebuilds := (x k).rebuilds ++ [(n, s.dt)]
                                     failing := if again ∧ n ∉ (x k).failing then (x k).failing ++ [n] else (x k).failing })) ∧
     (∀ k n, s.input.region = .lane k n → (x k).spused = true → kills fun t => LaneKilled s t c k n) ∧
     (∀ k n n', s.input.region = .twoLanes k n n' → kills fun t => LaneKilled s t c k n ∧ LaneKilled s t c k n') ∧
     (∀ k, s.input.region = .spare k → (x k).spused = true → kills fun t => LaneKilled s t c k (x k).splane) ∧
     (∀ k, s.input.region = .spare k → (x k).spused = false → only stopped) ∧
     (s.input.region = .tileStore → only stopped) ∧
     (s.input.region = .icache → only { stopped with icache := [] }) ∧
     (∀ b, s.input.region = .l1Bank b → ∃ k, only k ∧ { k with l1 := stopped.l1 } = stopped ∧
       ∀ l, tget? k.l1 l = if Config.l1BankOf l = b then none else tget? (s.core c).l1 l) ∧
     (∀ ws, s.input.region = .sharedBank ws → ∃ t, exec .strikeReport s = .next t ∧ { t with cores := s.cores, teams := s.teams } = s ∧
       t.core c = stopped ∧ ∀ tk m, s.team tk = some m → ∃ m', t.team tk = some m' ∧ { m' with shPoison := m.shPoison } = m ∧
         ∀ n, n ∈ m'.shPoison ↔ n ∈ m.shPoison ∨ ∃ e ∈ ws, 16 * c + e.1 = tk ∧ 4 * e.2 = n) ∧
     (∀ slot q es m l, s.input.region = .queueBank slot q es → s.team (16 * c + slot) = some m → tget? m.q q = some l →
       ∃ t m' l', exec .strikeReport s = .next t ∧ { t with cores := s.cores, teams := s.teams } = s ∧ t.core c = stopped ∧
         (∀ k, k ≠ 16 * c + slot → t.team k = s.team k) ∧ t.team (16 * c + slot) = some m' ∧ { m' with q := m.q } = m ∧
         tget? m'.q q = some l' ∧ l'.length = l.length ∧ ∀ i w, l[i]? = some w → l'[i]? = some (if i ∈ es then poisoned else w)) ∧
     (∀ k n, s.input.region = .laneAlu k n →
       (let near := (x k).residue.filter fun e => s.dt < e.2 + 2 ^ 24
        let again := ∃ e ∈ near, e.1 = n
        only { stopped with slices := tset stopped.slices k { x k with
          residue := near ++ [(n, s.dt)]
          failing := if again ∧ n ∉ (x k).failing then (x k).failing ++ [n] else (x k).failing } })))

end Sys2Proof.Claim

/-- Replays, engines, lane sparing, the scrubber, links and replacements. -/
def Sys2Proof.Claim.ReplaySteps : Prop :=
  ∀ s : State,
    (let c := s.input.core
     let only (i : Instr) (k : Core) : Prop := ∃ t, exec i s = .next t ∧ { t with cores := s.cores } = s ∧ t.core c = k ∧
       ∀ d, d ≠ c → t.core d = s.core d
     (∀ p, s.input.region = .array p → s.recent = [] →
       (tget s.checks c [] = [] → s.redo = [] → only .strikeReport { s.core c with stop := s.dt + s.cycles c 24 }) ∧
       (∀ tk m cp old, tget s.checks c [] = [cp] → s.dt ≤ cp.dt + 64 → s.teams = [(tk, m)] → tk / 16 = c → tk < 4608 →
         (s.slot tk).st ≠ .ending → (∀ n, n < 16 → (s.slot (16 * c + n)).st ≠ .saving) → cp.teams = [(tk, old)] → old.uid = m.uid →
         ∃ t m', exec .strikeReport s = .next t ∧ MemSame s t ∧ t.team tk = some m' ∧ m'.groups = old.groups ∧ m'.sh = old.sh ∧
           m'.shPoison = old.shPoison ∧ m'.bars = old.bars ∧ m'.tbs = old.tbs ∧ m'.ranges = old.ranges ∧ (t.core c).stop = s.dt + s.cycles c 24)) ∧
     (∀ id a n p, s.input.flag = false → s.accs = [(id, a)] → (∀ cid g j, a.owner ≠ .copy cid g j) → a.src = 512 + s.input.die → a.isLoad = false → a.stage = .net n p →
       s.dt ≤ a.dt + 64 → s.copies = [] →
       ∃ t x k q, exec .engineStrikeReport s = .next t ∧ MemSame s t ∧ RegsSame s t ∧ t.accs = [(id, x)] ∧ x.stage = .net k q ∧
         s.dt + 64 + routeMin a.src a.key ≤ k ∧ x.data = a.data ∧ x.key = a.key ∧ x.kind = a.kind) ∧
     (let k := s.input.slice
      let x := s.sliceSt c k
      let n := s.input.lane
      let y : SliceSt := { x with failing := if n ∈ x.failing then x.failing else x.failing ++ [n] }
      c < 288 → k < 32 → n < 4 → only .laneFailCommand { s.core c with slices := tset (s.core c).slices k y })) ∧
    (∀ c k n rest, s.takeoverDue c k = true → (s.sliceSt c k).failing = n :: rest → (s.sliceSt c k).spused = false →
      ∃ t, exec (.laneTakeover c k) s = .next t ∧ { t with cores := s.cores, sources := s.sources, teams := s.teams } = s ∧ RegsSame s t ∧
        t.sliceSt c k =
        { s.sliceSt c k with failing := rest, splane := n, spused := true, rbcnt := min 255 ((s.sliceSt c k).rbcnt + 1), stop := s.dt + s.cycles c 128 }) ∧
    (∀ c k n rest tk m g gr, s.takeoverDue c k = true → (s.sliceSt c k).failing = n :: rest → (s.sliceSt c k).spused = true →
      s.teams = [(tk, m)] → tk / 16 = c → tk < 4608 → tget? m.groups g = some gr → g % 4 = k / 8 → gr.retired = false → gr.limbs = none →
      ∃ t, exec (.laneTakeover c k) s = .next t ∧ MemSame s t ∧ RegsSame s t ∧
        ∀ th, tget? gr.th (4 * (k % 8) + n) = some th → (t.thread tk g (4 * (k % 8) + n)).map (·.st) = some .exited) ∧
    (let l := s.input.line
     (s.input.scrub = .clean → exec .scrubPass s = .next s) ∧
     (s.input.scrub = .corrected → ∃ t, exec .scrubPass s = .next t ∧ MemSame s t ∧ t.teams = s.teams ∧ t.poison = s.poison ∧
       tget t.corrected (if s.input.flag then 1 else 0) 0 = tget s.corrected (if s.input.flag then 1 else 0) 0 + 1 ∧ (s.input.flag = false → 128 * l < 2 ^ 48 → l / 32 ∈ t.dirty)) ∧
     (s.input.scrub = .uncorrectable → s.input.flag = false → ∃ t, exec .scrubPass s = .next t ∧ MemSame s t ∧ t.teams = s.teams ∧
       ∀ k, k < 32 → t.marked (128 * l + 4 * k) = true)) ∧
    (∀ die n l, s.input.region = .homeSlice die n (.data l) → homeDie (128 * l) = die → isRemote (128 * l) = false →
       s.homeSlice (128 * l) = n → (s.line l).acc = none → ∃ t, exec .strikeReport s = .next t ∧ { t with poison := s.poison } = s ∧
         ∀ k, k < 32 → t.marked (128 * l + 4 * k) = true) ∧
    (let n := s.input.link
     let x := tget s.links n {}
     exec .flitRetry s = .next { s with corrected := tset s.corrected (256 + n) (tget s.corrected (256 + n) 0 + 1), links := tset s.links n { x with retries := x.retries + 1 } } ∧
     exec .linkLaneSwap s = .next { s with links := tset s.links n { x with spares := x.spares + 1, retries := x.retries + 1 } } ∧
     exec .linkFailover s = .next { s with links := tset s.links n { x with failed := true } }) ∧
    (let die := s.input.die
     let n := s.input.slice
     32 * die + n ∉ s.replaced → 32 * die + (n ^^^ 16) ∉ s.replaced → s.sliceQuiet die n = true →
       ∃ t, exec .sliceReplacement s = .next t ∧ MemSame s t ∧ t.teams = s.teams ∧
         ∀ key, homeDie key = die → isRemote key = false → s.homeSlice key = n → t.homeSlice key = n ^^^ 16 ∧
           (t.line (key / 128)).maxLE = 0 ∧ (t.line (key / 128)).owners = [] ∧ (t.line (key / 128)).dirty = false) ∧
    exec .hbmRowRepair s = .next (if (s.input.id, s.input.addr) ∈ s.repaired then s
      else { s with repaired := s.repaired ++ [(s.input.id, s.input.addr)] }) ∧
    exec .hbmChannelLoss s = .next (if (s.input.addr, s.input.count) ∈ s.lostFrames then s
      else { s with lostFrames := s.lostFrames ++ [(s.input.addr, s.input.count)] })

/-- Reliability (25 R379-R391): replays, what each region of a core asks for besides, lane sparing, the scrubber, links and replacements. These
are the model's choices: a replay goes back to the oldest checkpoint of the window (log 21), lost HBM frames still answer and a row repair is one
step (log 81), an error enters as a step with its data and counts under the model's numbers (log 85), and stops last whole ticks (log 110). -/
def Obligations.ReliabilitySteps : Prop := Claim.ReplaySteps ∧ Claim.RegionSteps

/-- Ageing and clocks (25 R392-R394; 26 R396; 29 R433): the drift of a cluster in steps of 25 MHz, RETREQ beyond twelve of them, the step itself
and its 1,200 ticks, and what power and heat ask for, whose steps the model keeps beside those of ageing and takes at a clause boundary (log
79). -/
def Obligations.ClockSteps : Prop :=
  ∀ (s : State) (c : Nat),
    (let x := s.cluster c
     let only (i : Instr) (y : Cluster) : Prop := ∃ t, exec i s = .next t ∧ { t with clusters := s.clusters } = s ∧ t.cluster c = y ∧
       ∀ n, n ≠ c → t.cluster n = s.cluster n
     (∀ n k, s.ageingDue c = true →
       (let n0 := Config.birthCount c
        n ≤ n0 → k ≤ 12 → 200 * (n0 - n) ≤ (k + 2) * n0 → (k ≠ 0 → (k + 1) * n0 < 200 * (n0 - n)) →
        only (.ageingCheck c n) { x with next := x.next + 2 ^ 20, drift := (n0 - n) * 2 ^ 16 / n0 % 2 ^ 16
                                         pending := if max x.steps (x.pending.getD 0) < k then some k else x.pending }) ∧
       (let n0 := Config.birthCount c
        n ≤ n0 → 14 * n0 < 200 * (n0 - n) →
        only (.ageingCheck c n) { x with next := x.next + 2 ^ 20, drift := (n0 - n) * 2 ^ 16 / n0 % 2 ^ 16, retreq := true
                                         pending := if max x.steps (x.pending.getD 0) < 12 then some 12 else x.pending }) ∧
       (Config.birthCount c < n →
        only (.ageingCheck c n) { x with
          next := x.next + 2 ^ 20
          drift := (Config.driftGained (((Config.birthCount c : Int) - n) * 2 ^ 16 / Config.birthCount c)).toNat })) ∧
     (s.clockDue c = true → ∃ t, exec (.clockStep c) s = .next t ∧ { t with clusters := s.clusters, sources := s.sources } = s ∧
       t.cluster c = { x with steps := x.pending.getD x.steps, pending := none, cap := x.capPend.getD x.cap, capPend := none
                              stop := s.dt + 1200 }) ∧
     (c = s.input.cluster → only .pwrcapClockChange { x with capPend := some s.input.count }) ∧
     (s.input.count ≤ 45 → exec .thermalTrip s = .next s) ∧
     (45 < s.input.count → ∃ t, exec .thermalTrip s = .next t ∧ { t with clusters := s.clusters, sources := s.sources } = s ∧
       ∀ n, n < 36 → t.cluster n = { s.cluster n with capPend := some 12 }))

/-- Bring-up and migration (29 R426-R432; 30 R434; 00 R10): what power and a reset leave, a function's self-test, the firmware's start
and report; and a job's rounds, transfers, stop and key. Four points are the model's choices: what a device reset keeps (log 77), that a
receiver keeps the frame of the latest round of a job and a clear keeps another context's frames for it (log 75), the ciphers, the signature and
the header, which are free functions (log 6), and that a key is ignored while no verified firmware runs (log 112). -/
def Obligations.BringUpAndMigrationSteps : Prop :=
  ∀ s : State,
    (let fresh (d : Nat) : State := { State.reset with
       dt := d, clusters := (List.range 36).map fun n => (n, { next := d + 2 ^ 20 }), free := s.free, agenda := s.agenda, input := s.input
       nextId := s.nextId, fwCounter := s.fwCounter, trace := s.trace, damaged := s.damaged, windex := s.windex, resets := s.resets
       keyCounts := s.keyCounts }
     (∀ v, s.input.time = some v → exec .powerOn s = .next (fresh v.toNat)) ∧
     (s.input.time = none → s.windex = 0 → exec .powerOn s = .next (fresh 0)) ∧
     (s.input.time = none → s.windex ≠ 0 → exec .powerOn s = .next (fresh (s.lastDt + 2 ^ 32))) ∧
     ∃ t, exec .deviceReset s = .next t ∧
       { t with sources := [] } = { fresh s.dt with mem := s.mem, poison := s.poison, resets := s.resets + 1 }) ∧
    (let b := s.input.id
     let m : Word := 1 <<< b
     b < 15 → (s.input.flag = true → s.failedReg.getLsbD b = false → (b = 0 ∨ s.readyReg.getLsbD 0 = true ∨ s.failedReg.getLsbD 0 = true) →
         (b = 1 → s.fwRunning = true) →
         ∃ t, exec .selfTestComplete s = .next t ∧ { t with sources := s.sources, readyReg := s.readyReg } = s ∧ t.readyReg = s.readyReg ||| m) ∧
       (s.input.flag = true → b = 1 → s.fwRunning = false → ∃ t, exec .selfTestComplete s = .next t ∧ { t with sources := s.sources } = s) ∧
       (s.input.flag = false → s.readyReg.getLsbD b = false → ∃ t, exec .selfTestComplete s = .next t ∧
         { t with sources := s.sources, failedReg := s.failedReg } = s ∧ t.failedReg = s.failedReg ||| m)) ∧
    (if Config.imageVerifies s.input.bytes = true ∧ s.fwCounter.toNat ≤ s.input.value.toNat then
      ∃ t, exec .firmwareBoot s = .next t ∧ { t with sources := s.sources } = { s with
        fwRunning := true, fwVersion := s.input.value, fwImage := s.input.bytes
        readyReg := if s.failedReg.getLsbD 1 = false ∧ (s.readyReg.getLsbD 0 = true ∨ s.failedReg.getLsbD 0 = true) then s.readyReg ||| 2
          else s.readyReg }
     else exec .firmwareBoot s = .next { s with fwRunning := false, readyReg := s.readyReg &&& ~~~2 }) ∧
    (s.fwRunning = false → exec .attestationRequest s = .next s) ∧
    (s.fwRunning = true → s.input.bytes.length = 32 →
      (let body := s.input.bytes ++ leBytes 8 Config.devId.toNat ++ leBytes 8 s.fwVersion.toNat ++ leBytes 96 (Config.measurements s.fwImage).toNat
       exec .attestationRequest s = .next { s with outbox := s.outbox ++ [.report (body ++ leBytes 64 (Config.sm2Sign body).toNat)] })) ∧
    (let cx := s.input.ctx
     let m := (s.ctx cx).migr
     let silent : Prop := (s.tenant (s.ctx cx).tenant).mask.getLsbD 18 = true
     let up : Prop := s.readyReg.getLsbD 12 = true ∧ s.readyReg.getLsbD 13 = true
     let open_ : Prop := ∃ k ∈ m.refused, ∃ v, tget? s.saves k = some v ∧ v.refused = false
     let count (key : Nat) : Nat := tget s.keyCounts (tget s.keys key 0).toNat 0
     let sent (t : State) (round f peer key job : Nat) : Prop :=
       let iv := job % 2 ^ 32 * 2 ^ 64 + count key % 2 ^ 64
       let head := leBytes 64 (Config.frameHeader cx round (s.frameVa cx f) f 4096).toNat
       let c := Config.gcmSeal (tget s.keys key 0) iv head (mgets s.mem (4096 * f) 4096)
       tget t.keyCounts (tget s.keys key 0).toNat 0 = count key + 1 ∧ (t.ctx cx).migr.todo = [] ∧
       ∃ cid, t.outbox = s.outbox ++
         [.transfer cid peer (tget? (s.ctx cx).peers peer) iv (head ++ leBytes 4096 c.1.toNat ++ leBytes 16 c.2.toNat)]
     ((¬ up ∨ m.state = 1 ∨ m.state = 2 ∨ m.state = 3 ∨ tget? (s.ctx cx).peers s.input.peer = none) → exec .migrationStart s = .next s) ∧
     (∀ f, up → silent → m.state ≠ 1 → m.state ≠ 2 → m.state ≠ 3 → (tget? (s.ctx cx).peers s.input.peer).isSome = true →
       s.framesOf cx = [(f, 1)] → Quiet s (4096 * f) 4096 → s.roomAt 770 = true →
       ∃ t, exec .migrationStart s = .next t ∧ MemSame s t ∧ t.teams = s.teams ∧ (t.ctx cx).migr.state = 1 ∧
         sent t 0 f s.input.peer s.input.q s.input.id) ∧
     ((m.state ≠ 1 ∨ open_) → exec .migrationRound s = .next s ∧ exec .migrationStop s = .next s) ∧
     (∀ f, m.state = 1 → ¬ open_ → m.found = [] → m.todo = [] → s.framesOf cx = [(f, 1)] → s.dirty = [f] → tkeys s.ctxs = [cx] →
       Quiet s (4096 * f) 4096 → s.roomAt 770 = true →
       ∃ t, exec .migrationRound s = .next t ∧ MemSame s t ∧ t.teams = s.teams ∧ t.dirty = [] ∧
         (t.ctx cx).migr.round = min 4095 (m.round + 1) ∧ sent t (min 4095 (m.round + 1)) f m.peer m.key m.job) ∧
     (silent → m.state = 1 → ¬ open_ → s.slotsOf cx = [] → ∃ t, exec .migrationStop s = .next t ∧
       { t with ctxs := s.ctxs, tenants := s.tenants } = s ∧ t.ctx cx = { s.ctx cx with migr := { m with state := 2 } }) ∧
     (¬ up → exec .migrationTransfer s = .next s) ∧
     (up →
      let iv := s.input.count % 2 ^ 32 * 2 ^ 64 + s.input.value.toNat
      let opened := Config.gcmOpen (tget s.keys s.input.id 0) iv s.input.header s.input.bytes
      let f := s.input.addr / 4096
      (opened = none → ∃ t, exec .migrationTransfer s = .next t ∧ { t with sources := s.sources, outbox := s.outbox } = s ∧
        t.outbox = s.outbox ++ [.resend s.input.cid iv]) ∧
      (∀ l, opened = some l → s.input.saved = none → tget? s.received f = none → 4096 * f + 4096 ≤ 2 ^ 48 → Closed s (4096 * f) 4096 →
        ∃ t, exec .migrationTransfer s = .next t ∧ Stored s t (4096 * f) (leBytes 4096 l.toNat) ∧ RegsSame s t ∧
          tget? t.received f = some (s.input.count, Config.headerRound s.input.header)) ∧
      (∀ l v, opened = some l → s.input.saved = some v → tget? s.received f = none → 4096 * f + 4096 ≤ 2 ^ 48 →
        Closed s (4096 * f) 4096 → (∀ k ∈ tkeys v.accs ++ tkeys v.ops ++ tkeys v.copies, s.nextId ≤ k) → s.nextId ≤ v.team.uid →
        ∃ t k, exec .migrationTransfer s = .next t ∧ Stored s t (4096 * f) (leBytes 4096 l.toNat) ∧ RegsSame s t ∧ s.nextId ≤ k ∧
          tget? t.saves k = some { v with written := true, refused := false, told := false })) ∧
     (s.fwRunning = true → exec .migrationKeyLoad s = .next { s with keys := tset s.keys s.input.id s.input.key }) ∧
     (s.fwRunning = false → exec .migrationKeyLoad s = .next s))

/-! The whole machine. -/

/-- Encoding and decoding agree (05 R77, R82-R88, R98-R105): the words of a well-formed instruction, before any others, decode in its
class to that instruction and leave the others; and what two words decode to encodes to them again. -/
def Obligations.EncodeDecode : Prop :=
  (∀ (x : Instr) (ws : List Word), WellFormed x = true → ∃ c, decodeNext c (encode x ++ ws) = some (x, ws)) ∧
  ∀ (c : Cls) (w u : Word) (x : Instr) (rest : List Word), decodeNext c [w, u] = some (x, rest) → encode x ++ rest = [w, u]

/-- Words that the spec writes out, each in the class of its clause. -/
def Obligations.DecodeExamples : Prop :=
  decodeNext .L [0x000303E1] = some (.iadd .L { w := false, d := 3, a := 3, b := 225, ext := none }, []) ∧
  decodeNext .L [0x65090102, 0x00700601] =
    some (.cvtpk .L { w := false, d := 9, a := 1, b := 2, ext := some { c := 0, pn := false, p := 7, ws := 0, imm := 0x601 } }, []) ∧
  decodeNext .M [0x1F0A445C, 0x0C740000] =
    some (.atomGCas { w := false, d := 10, a := 68, width := 2, order := 3, scope := 4
                      ext := some { c := 12, pn := false, p := 7, ws := 2, imm := 0 } }, []) ∧
  decodeNext .K [0x047200C0] = some (.call { n := false, i := 7, frame := 2, off := 0xC0, ext := none }, []) ∧
  decodeNext .T [0x1D108E06, 0x00720000] =
    some (.fragLd { w := false, d := 16, a := 142, b := 6, ext := some { c := 0, pn := false, p := 7, ws := 1, imm := 0 } }, []) ∧
  decodeNext .C [0x01000000, 0x00700001] =
    some (.lbind { w := false, d := 0, a := 0, b := 0, ext := some { c := 0, pn := false, p := 7, ws := 0, imm := 1 } }, []) ∧
  decodeNext .S [0x005B0800] = some (.rdsr { w := false, d := 91, a := 8, b := 0, ext := none }, [])

/-- A step runs the decoded instruction (05 R80, R98): the words of a clause are those at its address; the next word of the clause in
progress whose turn it is is executed, and so is a step of the hardware that is due; what follows every step follows. The model's choices are
the order in which these come (log 4) and that a word that is no header is fetched alone (log 24). -/
def Obligations.StepRuns : Prop :=
  ∀ s : State,
    (∀ core cx pc e rest, (s.core core).tlb = e :: rest → (s.core core).icache = [] → pc % 4 = 0 → pc + 64 ≤ 2 ^ 56 →
      (∀ k, k < 16 → e.hits cx (pc + 4 * k) = true) → admits e.pte.toNat .exec = true →
      (let key (k : Nat) : Nat := leafKey s.devno e.pte.toNat e.level (pc + 4 * k)
       let w (k : Nat) : Word := wn (leNat (mgets s.mem (key k) 4))
       (∀ k, k < 16 → s.marked (key k) = false) →
        (s.fetch core cx pc).1 =
          .ok ((List.range ((if (w 0).extractLsb' 28 4 == 15 then ((w 0).extractLsb' 24 4).toNat else 0) + 1)).map w))) ∧
    (∀ c rest x ws, s.agenda = [] → s.turn = true → s.issues = c :: rest → decodeNext c.header.cls c.words = some (x, ws) →
      (let t : State := { s with issues := { c with words := ws, widx := c.header.n.toNat + 1 - c.words.length } :: rest }
       (∀ u, exec x t = .next u → step s = .next (u.wordDone.after s (some x))) ∧
       (∀ r, exec x t = .fault r → step s = .fault r) ∧ (∀ r, exec x t = .refused r → step s = .refused r))) ∧
    (∀ x i rest, s.agenda = (x, i) :: rest →
      (let t : State := { s with agenda := rest, input := i }
       (∀ u, exec x t = .next u → step s = .next (u.after s (some x))) ∧
       (∀ r, exec x t = .fault r → step s = .fault r) ∧ (∀ r, exec x t = .refused r → step s = .refused r)))

/-- What reset leaves (07 R123, R128; 21 R341; 23 R359; 27 R398; 29 R421, R426): no team, no access, no record; the leases of 512 ticks and
the timers at their reset values; no function ready; memory in its form. The model's choices are what memory that nothing has written holds,
no poison mark included (log 1), and what stands in State where the spec gives no reset value: no team, no access, no card (log 2). -/
def Obligations.ResetState : Prop :=
  (let s := State.reset
   s.dt = 0 ∧ s.teams = [] ∧ s.issues = [] ∧ s.accs = [] ∧ s.cards = [] ∧ s.copies = [] ∧ s.insts = [] ∧ s.llhbm = 512 ∧ s.llhost = 512 ∧
     s.draint = 24000 ∧ s.dskew = 240 ∧ s.readyReg = 0 ∧ s.failedReg = 0 ∧ s.windex = 0 ∧ (∀ n, (s.tenant n).mask = 0xFFFFFFFF) ∧
     (∀ n, (s.tenant n).pend = 0) ∧ (∀ c, (s.ctx c).fqsize = 0) ∧ (∀ a, s.marked a = false) ∧ Memory.wf s.mem = true)

/-- Memory keeps its one form through every step, from every state that has it. -/
def Obligations.MemoryForm : Prop :=
  ∀ s t : State, Memory.wf s.mem = true → step s = .next t → Memory.wf t.mem = true
end

