-- ==== Sys2Proof/Laws/State.lean ====
section
/-! SUPPORT. What each update of a part of the state leaves as it was: one lemma for each field and update, by which no later proof
unfolds a record update; and what the updates do to the parts themselves. -/

namespace Sys2Proof.Machine

variable (s : State)

@[simp] theorem setCore_dt (c : Nat) (k : Core) : (s.setCore c k).dt = s.dt := rfl
@[simp] theorem setCore_free (c : Nat) (k : Core) : (s.setCore c k).free = s.free := rfl
@[simp] theorem setCore_agenda (c : Nat) (k : Core) : (s.setCore c k).agenda = s.agenda := rfl
@[simp] theorem setCore_input (c : Nat) (k : Core) : (s.setCore c k).input = s.input := rfl
@[simp] theorem setCore_turn (c : Nat) (k : Core) : (s.setCore c k).turn = s.turn := rfl
@[simp] theorem setCore_issues (c : Nat) (k : Core) : (s.setCore c k).issues = s.issues := rfl
@[simp] theorem setCore_mem (c : Nat) (k : Core) : (s.setCore c k).mem = s.mem := rfl
@[simp] theorem setCore_poison (c : Nat) (k : Core) : (s.setCore c k).poison = s.poison := rfl
@[simp] theorem setCore_lines (c : Nat) (k : Core) : (s.setCore c k).lines = s.lines := rfl
@[simp] theorem setCore_accums (c : Nat) (k : Core) : (s.setCore c k).accums = s.accums := rfl
@[simp] theorem setCore_accs (c : Nat) (k : Core) : (s.setCore c k).accs = s.accs := rfl
@[simp] theorem setCore_ops (c : Nat) (k : Core) : (s.setCore c k).ops = s.ops := rfl
@[simp] theorem setCore_nextId (c : Nat) (k : Core) : (s.setCore c k).nextId = s.nextId := rfl
@[simp] theorem setCore_teams (c : Nat) (k : Core) : (s.setCore c k).teams = s.teams := rfl
@[simp] theorem setCore_copies (c : Nat) (k : Core) : (s.setCore c k).copies = s.copies := rfl
@[simp] theorem setCore_cards (c : Nat) (k : Core) : (s.setCore c k).cards = s.cards := rfl
@[simp] theorem setCore_ctxs (c : Nat) (k : Core) : (s.setCore c k).ctxs = s.ctxs := rfl
@[simp] theorem setCore_tenants (c : Nat) (k : Core) : (s.setCore c k).tenants = s.tenants := rfl
@[simp] theorem setCore_saves (c : Nat) (k : Core) : (s.setCore c k).saves = s.saves := rfl
@[simp] theorem setCore_sources (c : Nat) (k : Core) : (s.setCore c k).sources = s.sources := rfl
@[simp] theorem setCore_dieTlb (c : Nat) (k : Core) : (s.setCore c k).dieTlb = s.dieTlb := rfl
@[simp] theorem setCore_trace (c : Nat) (k : Core) : (s.setCore c k).trace = s.trace := rfl
@[simp] theorem setCore_windex (c : Nat) (k : Core) : (s.setCore c k).windex = s.windex := rfl
@[simp] theorem setCore_devno (c : Nat) (k : Core) : (s.setCore c k).devno = s.devno := rfl
@[simp] theorem setCore_sending (c : Nat) (k : Core) : (s.setCore c k).sending = s.sending := rfl
@[simp] theorem setCore_redo (c : Nat) (k : Core) : (s.setCore c k).redo = s.redo := rfl
@[simp] theorem setCore_clusters (c : Nat) (k : Core) : (s.setCore c k).clusters = s.clusters := rfl
@[simp] theorem setCore_fwRunning (c : Nat) (k : Core) : (s.setCore c k).fwRunning = s.fwRunning := rfl
@[simp] theorem setCore_corrected (c : Nat) (k : Core) : (s.setCore c k).corrected = s.corrected := rfl
@[simp] theorem setCore_spsize (c : Nat) (k : Core) : (s.setCore c k).spsize = s.spsize := rfl
@[simp] theorem setCore_replaced (c : Nat) (k : Core) : (s.setCore c k).replaced = s.replaced := rfl
@[simp] theorem setCore_deferred (c : Nat) (k : Core) : (s.setCore c k).deferred = s.deferred := rfl
@[simp] theorem setCore_fwVersion (c : Nat) (k : Core) : (s.setCore c k).fwVersion = s.fwVersion := rfl
@[simp] theorem setCore_fwImage (c : Nat) (k : Core) : (s.setCore c k).fwImage = s.fwImage := rfl
@[simp] theorem setCore_keyCounts (c : Nat) (k : Core) : (s.setCore c k).keyCounts = s.keyCounts := rfl

@[simp] theorem modCore_dt (c : Nat) (f : Core → Core) : (s.modCore c f).dt = s.dt := rfl
@[simp] theorem modCore_free (c : Nat) (f : Core → Core) : (s.modCore c f).free = s.free := rfl
@[simp] theorem modCore_agenda (c : Nat) (f : Core → Core) : (s.modCore c f).agenda = s.agenda := rfl
@[simp] theorem modCore_input (c : Nat) (f : Core → Core) : (s.modCore c f).input = s.input := rfl
@[simp] theorem modCore_turn (c : Nat) (f : Core → Core) : (s.modCore c f).turn = s.turn := rfl
@[simp] theorem modCore_issues (c : Nat) (f : Core → Core) : (s.modCore c f).issues = s.issues := rfl
@[simp] theorem modCore_mem (c : Nat) (f : Core → Core) : (s.modCore c f).mem = s.mem := rfl
@[simp] theorem modCore_poison (c : Nat) (f : Core → Core) : (s.modCore c f).poison = s.poison := rfl
@[simp] theorem modCore_lines (c : Nat) (f : Core → Core) : (s.modCore c f).lines = s.lines := rfl
@[simp] theorem modCore_accums (c : Nat) (f : Core → Core) : (s.modCore c f).accums = s.accums := rfl
@[simp] theorem modCore_accs (c : Nat) (f : Core → Core) : (s.modCore c f).accs = s.accs := rfl
@[simp] theorem modCore_ops (c : Nat) (f : Core → Core) : (s.modCore c f).ops = s.ops := rfl
@[simp] theorem modCore_nextId (c : Nat) (f : Core → Core) : (s.modCore c f).nextId = s.nextId := rfl
@[simp] theorem modCore_teams (c : Nat) (f : Core → Core) : (s.modCore c f).teams = s.teams := rfl
@[simp] theorem modCore_copies (c : Nat) (f : Core → Core) : (s.modCore c f).copies = s.copies := rfl
@[simp] theorem modCore_cards (c : Nat) (f : Core → Core) : (s.modCore c f).cards = s.cards := rfl
@[simp] theorem modCore_ctxs (c : Nat) (f : Core → Core) : (s.modCore c f).ctxs = s.ctxs := rfl
@[simp] theorem modCore_tenants (c : Nat) (f : Core → Core) : (s.modCore c f).tenants = s.tenants := rfl
@[simp] theorem modCore_saves (c : Nat) (f : Core → Core) : (s.modCore c f).saves = s.saves := rfl
@[simp] theorem modCore_sources (c : Nat) (f : Core → Core) : (s.modCore c f).sources = s.sources := rfl
@[simp] theorem modCore_dieTlb (c : Nat) (f : Core → Core) : (s.modCore c f).dieTlb = s.dieTlb := rfl
@[simp] theorem modCore_trace (c : Nat) (f : Core → Core) : (s.modCore c f).trace = s.trace := rfl
@[simp] theorem modCore_windex (c : Nat) (f : Core → Core) : (s.modCore c f).windex = s.windex := rfl
@[simp] theorem modCore_devno (c : Nat) (f : Core → Core) : (s.modCore c f).devno = s.devno := rfl
@[simp] theorem modCore_sending (c : Nat) (f : Core → Core) : (s.modCore c f).sending = s.sending := rfl
@[simp] theorem modCore_redo (c : Nat) (f : Core → Core) : (s.modCore c f).redo = s.redo := rfl
@[simp] theorem modCore_clusters (c : Nat) (f : Core → Core) : (s.modCore c f).clusters = s.clusters := rfl
@[simp] theorem modCore_fwRunning (c : Nat) (f : Core → Core) : (s.modCore c f).fwRunning = s.fwRunning := rfl
@[simp] theorem modCore_corrected (c : Nat) (f : Core → Core) : (s.modCore c f).corrected = s.corrected := rfl
@[simp] theorem modCore_spsize (c : Nat) (f : Core → Core) : (s.modCore c f).spsize = s.spsize := rfl
@[simp] theorem modCore_replaced (c : Nat) (f : Core → Core) : (s.modCore c f).replaced = s.replaced := rfl
@[simp] theorem modCore_deferred (c : Nat) (f : Core → Core) : (s.modCore c f).deferred = s.deferred := rfl
@[simp] theorem modCore_fwVersion (c : Nat) (f : Core → Core) : (s.modCore c f).fwVersion = s.fwVersion := rfl
@[simp] theorem modCore_fwImage (c : Nat) (f : Core → Core) : (s.modCore c f).fwImage = s.fwImage := rfl
@[simp] theorem modCore_keyCounts (c : Nat) (f : Core → Core) : (s.modCore c f).keyCounts = s.keyCounts := rfl

@[simp] theorem modTeam_dt (tk : Nat) (f : Team → Team) : (s.modTeam tk f).dt = s.dt := rfl
@[simp] theorem modTeam_free (tk : Nat) (f : Team → Team) : (s.modTeam tk f).free = s.free := rfl
@[simp] theorem modTeam_agenda (tk : Nat) (f : Team → Team) : (s.modTeam tk f).agenda = s.agenda := rfl
@[simp] theorem modTeam_input (tk : Nat) (f : Team → Team) : (s.modTeam tk f).input = s.input := rfl
@[simp] theorem modTeam_turn (tk : Nat) (f : Team → Team) : (s.modTeam tk f).turn = s.turn := rfl
@[simp] theorem modTeam_issues (tk : Nat) (f : Team → Team) : (s.modTeam tk f).issues = s.issues := rfl
@[simp] theorem modTeam_mem (tk : Nat) (f : Team → Team) : (s.modTeam tk f).mem = s.mem := rfl
@[simp] theorem modTeam_poison (tk : Nat) (f : Team → Team) : (s.modTeam tk f).poison = s.poison := rfl
@[simp] theorem modTeam_lines (tk : Nat) (f : Team → Team) : (s.modTeam tk f).lines = s.lines := rfl
@[simp] theorem modTeam_accums (tk : Nat) (f : Team → Team) : (s.modTeam tk f).accums = s.accums := rfl
@[simp] theorem modTeam_accs (tk : Nat) (f : Team → Team) : (s.modTeam tk f).accs = s.accs := rfl
@[simp] theorem modTeam_ops (tk : Nat) (f : Team → Team) : (s.modTeam tk f).ops = s.ops := rfl
@[simp] theorem modTeam_nextId (tk : Nat) (f : Team → Team) : (s.modTeam tk f).nextId = s.nextId := rfl
@[simp] theorem modTeam_cores (tk : Nat) (f : Team → Team) : (s.modTeam tk f).cores = s.cores := rfl
@[simp] theorem modTeam_copies (tk : Nat) (f : Team → Team) : (s.modTeam tk f).copies = s.copies := rfl
@[simp] theorem modTeam_cards (tk : Nat) (f : Team → Team) : (s.modTeam tk f).cards = s.cards := rfl
@[simp] theorem modTeam_ctxs (tk : Nat) (f : Team → Team) : (s.modTeam tk f).ctxs = s.ctxs := rfl
@[simp] theorem modTeam_tenants (tk : Nat) (f : Team → Team) : (s.modTeam tk f).tenants = s.tenants := rfl
@[simp] theorem modTeam_saves (tk : Nat) (f : Team → Team) : (s.modTeam tk f).saves = s.saves := rfl
@[simp] theorem modTeam_sources (tk : Nat) (f : Team → Team) : (s.modTeam tk f).sources = s.sources := rfl
@[simp] theorem modTeam_dieTlb (tk : Nat) (f : Team → Team) : (s.modTeam tk f).dieTlb = s.dieTlb := rfl
@[simp] theorem modTeam_trace (tk : Nat) (f : Team → Team) : (s.modTeam tk f).trace = s.trace := rfl
@[simp] theorem modTeam_windex (tk : Nat) (f : Team → Team) : (s.modTeam tk f).windex = s.windex := rfl
@[simp] theorem modTeam_devno (tk : Nat) (f : Team → Team) : (s.modTeam tk f).devno = s.devno := rfl
@[simp] theorem modTeam_sending (tk : Nat) (f : Team → Team) : (s.modTeam tk f).sending = s.sending := rfl
@[simp] theorem modTeam_redo (tk : Nat) (f : Team → Team) : (s.modTeam tk f).redo = s.redo := rfl
@[simp] theorem modTeam_clusters (tk : Nat) (f : Team → Team) : (s.modTeam tk f).clusters = s.clusters := rfl
@[simp] theorem modTeam_fwRunning (tk : Nat) (f : Team → Team) : (s.modTeam tk f).fwRunning = s.fwRunning := rfl
@[simp] theorem modTeam_corrected (tk : Nat) (f : Team → Team) : (s.modTeam tk f).corrected = s.corrected := rfl
@[simp] theorem modTeam_spsize (tk : Nat) (f : Team → Team) : (s.modTeam tk f).spsize = s.spsize := rfl
@[simp] theorem modTeam_replaced (tk : Nat) (f : Team → Team) : (s.modTeam tk f).replaced = s.replaced := rfl
@[simp] theorem modTeam_deferred (tk : Nat) (f : Team → Team) : (s.modTeam tk f).deferred = s.deferred := rfl
@[simp] theorem modTeam_fwVersion (tk : Nat) (f : Team → Team) : (s.modTeam tk f).fwVersion = s.fwVersion := rfl
@[simp] theorem modTeam_fwImage (tk : Nat) (f : Team → Team) : (s.modTeam tk f).fwImage = s.fwImage := rfl
@[simp] theorem modTeam_keyCounts (tk : Nat) (f : Team → Team) : (s.modTeam tk f).keyCounts = s.keyCounts := rfl

@[simp] theorem modGroup_dt (tk g : Nat) (f : Group → Group) : (s.modGroup tk g f).dt = s.dt := rfl
@[simp] theorem modGroup_free (tk g : Nat) (f : Group → Group) : (s.modGroup tk g f).free = s.free := rfl
@[simp] theorem modGroup_agenda (tk g : Nat) (f : Group → Group) : (s.modGroup tk g f).agenda = s.agenda := rfl
@[simp] theorem modGroup_input (tk g : Nat) (f : Group → Group) : (s.modGroup tk g f).input = s.input := rfl
@[simp] theorem modGroup_turn (tk g : Nat) (f : Group → Group) : (s.modGroup tk g f).turn = s.turn := rfl
@[simp] theorem modGroup_issues (tk g : Nat) (f : Group → Group) : (s.modGroup tk g f).issues = s.issues := rfl
@[simp] theorem modGroup_mem (tk g : Nat) (f : Group → Group) : (s.modGroup tk g f).mem = s.mem := rfl
@[simp] theorem modGroup_poison (tk g : Nat) (f : Group → Group) : (s.modGroup tk g f).poison = s.poison := rfl
@[simp] theorem modGroup_lines (tk g : Nat) (f : Group → Group) : (s.modGroup tk g f).lines = s.lines := rfl
@[simp] theorem modGroup_accums (tk g : Nat) (f : Group → Group) : (s.modGroup tk g f).accums = s.accums := rfl
@[simp] theorem modGroup_accs (tk g : Nat) (f : Group → Group) : (s.modGroup tk g f).accs = s.accs := rfl
@[simp] theorem modGroup_ops (tk g : Nat) (f : Group → Group) : (s.modGroup tk g f).ops = s.ops := rfl
@[simp] theorem modGroup_nextId (tk g : Nat) (f : Group → Group) : (s.modGroup tk g f).nextId = s.nextId := rfl
@[simp] theorem modGroup_cores (tk g : Nat) (f : Group → Group) : (s.modGroup tk g f).cores = s.cores := rfl
@[simp] theorem modGroup_copies (tk g : Nat) (f : Group → Group) : (s.modGroup tk g f).copies = s.copies := rfl
@[simp] theorem modGroup_cards (tk g : Nat) (f : Group → Group) : (s.modGroup tk g f).cards = s.cards := rfl
@[simp] theorem modGroup_ctxs (tk g : Nat) (f : Group → Group) : (s.modGroup tk g f).ctxs = s.ctxs := rfl
@[simp] theorem modGroup_tenants (tk g : Nat) (f : Group → Group) : (s.modGroup tk g f).tenants = s.tenants := rfl
@[simp] theorem modGroup_saves (tk g : Nat) (f : Group → Group) : (s.modGroup tk g f).saves = s.saves := rfl
@[simp] theorem modGroup_sources (tk g : Nat) (f : Group → Group) : (s.modGroup tk g f).sources = s.sources := rfl
@[simp] theorem modGroup_dieTlb (tk g : Nat) (f : Group → Group) : (s.modGroup tk g f).dieTlb = s.dieTlb := rfl
@[simp] theorem modGroup_trace (tk g : Nat) (f : Group → Group) : (s.modGroup tk g f).trace = s.trace := rfl
@[simp] theorem modGroup_windex (tk g : Nat) (f : Group → Group) : (s.modGroup tk g f).windex = s.windex := rfl
@[simp] theorem modGroup_devno (tk g : Nat) (f : Group → Group) : (s.modGroup tk g f).devno = s.devno := rfl
@[simp] theorem modGroup_sending (tk g : Nat) (f : Group → Group) : (s.modGroup tk g f).sending = s.sending := rfl
@[simp] theorem modGroup_redo (tk g : Nat) (f : Group → Group) : (s.modGroup tk g f).redo = s.redo := rfl
@[simp] theorem modGroup_clusters (tk g : Nat) (f : Group → Group) : (s.modGroup tk g f).clusters = s.clusters := rfl
@[simp] theorem modGroup_fwRunning (tk g : Nat) (f : Group → Group) : (s.modGroup tk g f).fwRunning = s.fwRunning := rfl
@[simp] theorem modGroup_corrected (tk g : Nat) (f : Group → Group) : (s.modGroup tk g f).corrected = s.corrected := rfl
@[simp] theorem modGroup_spsize (tk g : Nat) (f : Group → Group) : (s.modGroup tk g f).spsize = s.spsize := rfl
@[simp] theorem modGroup_replaced (tk g : Nat) (f : Group → Group) : (s.modGroup tk g f).replaced = s.replaced := rfl
@[simp] theorem modGroup_deferred (tk g : Nat) (f : Group → Group) : (s.modGroup tk g f).deferred = s.deferred := rfl
@[simp] theorem modGroup_fwVersion (tk g : Nat) (f : Group → Group) : (s.modGroup tk g f).fwVersion = s.fwVersion := rfl
@[simp] theorem modGroup_fwImage (tk g : Nat) (f : Group → Group) : (s.modGroup tk g f).fwImage = s.fwImage := rfl
@[simp] theorem modGroup_keyCounts (tk g : Nat) (f : Group → Group) : (s.modGroup tk g f).keyCounts = s.keyCounts := rfl

@[simp] theorem modThread_dt (tk g t : Nat) (f : Thread → Thread) : (s.modThread tk g t f).dt = s.dt := rfl
@[simp] theorem modThread_free (tk g t : Nat) (f : Thread → Thread) : (s.modThread tk g t f).free = s.free := rfl
@[simp] theorem modThread_agenda (tk g t : Nat) (f : Thread → Thread) : (s.modThread tk g t f).agenda = s.agenda := rfl
@[simp] theorem modThread_input (tk g t : Nat) (f : Thread → Thread) : (s.modThread tk g t f).input = s.input := rfl
@[simp] theorem modThread_turn (tk g t : Nat) (f : Thread → Thread) : (s.modThread tk g t f).turn = s.turn := rfl
@[simp] theorem modThread_issues (tk g t : Nat) (f : Thread → Thread) : (s.modThread tk g t f).issues = s.issues := rfl
@[simp] theorem modThread_mem (tk g t : Nat) (f : Thread → Thread) : (s.modThread tk g t f).mem = s.mem := rfl
@[simp] theorem modThread_poison (tk g t : Nat) (f : Thread → Thread) : (s.modThread tk g t f).poison = s.poison := rfl
@[simp] theorem modThread_lines (tk g t : Nat) (f : Thread → Thread) : (s.modThread tk g t f).lines = s.lines := rfl
@[simp] theorem modThread_accums (tk g t : Nat) (f : Thread → Thread) : (s.modThread tk g t f).accums = s.accums := rfl
@[simp] theorem modThread_accs (tk g t : Nat) (f : Thread → Thread) : (s.modThread tk g t f).accs = s.accs := rfl
@[simp] theorem modThread_ops (tk g t : Nat) (f : Thread → Thread) : (s.modThread tk g t f).ops = s.ops := rfl
@[simp] theorem modThread_nextId (tk g t : Nat) (f : Thread → Thread) : (s.modThread tk g t f).nextId = s.nextId := rfl
@[simp] theorem modThread_cores (tk g t : Nat) (f : Thread → Thread) : (s.modThread tk g t f).cores = s.cores := rfl
@[simp] theorem modThread_copies (tk g t : Nat) (f : Thread → Thread) : (s.modThread tk g t f).copies = s.copies := rfl
@[simp] theorem modThread_cards (tk g t : Nat) (f : Thread → Thread) : (s.modThread tk g t f).cards = s.cards := rfl
@[simp] theorem modThread_ctxs (tk g t : Nat) (f : Thread → Thread) : (s.modThread tk g t f).ctxs = s.ctxs := rfl
@[simp] theorem modThread_tenants (tk g t : Nat) (f : Thread → Thread) : (s.modThread tk g t f).tenants = s.tenants := rfl
@[simp] theorem modThread_saves (tk g t : Nat) (f : Thread → Thread) : (s.modThread tk g t f).saves = s.saves := rfl
@[simp] theorem modThread_sources (tk g t : Nat) (f : Thread → Thread) : (s.modThread tk g t f).sources = s.sources := rfl
@[simp] theorem modThread_dieTlb (tk g t : Nat) (f : Thread → Thread) : (s.modThread tk g t f).dieTlb = s.dieTlb := rfl
@[simp] theorem modThread_trace (tk g t : Nat) (f : Thread → Thread) : (s.modThread tk g t f).trace = s.trace := rfl
@[simp] theorem modThread_windex (tk g t : Nat) (f : Thread → Thread) : (s.modThread tk g t f).windex = s.windex := rfl
@[simp] theorem modThread_devno (tk g t : Nat) (f : Thread → Thread) : (s.modThread tk g t f).devno = s.devno := rfl
@[simp] theorem modThread_sending (tk g t : Nat) (f : Thread → Thread) : (s.modThread tk g t f).sending = s.sending := rfl
@[simp] theorem modThread_redo (tk g t : Nat) (f : Thread → Thread) : (s.modThread tk g t f).redo = s.redo := rfl
@[simp] theorem modThread_clusters (tk g t : Nat) (f : Thread → Thread) : (s.modThread tk g t f).clusters = s.clusters := rfl
@[simp] theorem modThread_fwRunning (tk g t : Nat) (f : Thread → Thread) : (s.modThread tk g t f).fwRunning = s.fwRunning := rfl
@[simp] theorem modThread_corrected (tk g t : Nat) (f : Thread → Thread) : (s.modThread tk g t f).corrected = s.corrected := rfl
@[simp] theorem modThread_spsize (tk g t : Nat) (f : Thread → Thread) : (s.modThread tk g t f).spsize = s.spsize := rfl
@[simp] theorem modThread_replaced (tk g t : Nat) (f : Thread → Thread) : (s.modThread tk g t f).replaced = s.replaced := rfl
@[simp] theorem modThread_deferred (tk g t : Nat) (f : Thread → Thread) : (s.modThread tk g t f).deferred = s.deferred := rfl
@[simp] theorem modThread_fwVersion (tk g t : Nat) (f : Thread → Thread) : (s.modThread tk g t f).fwVersion = s.fwVersion := rfl
@[simp] theorem modThread_fwImage (tk g t : Nat) (f : Thread → Thread) : (s.modThread tk g t f).fwImage = s.fwImage := rfl
@[simp] theorem modThread_keyCounts (tk g t : Nat) (f : Thread → Thread) : (s.modThread tk g t f).keyCounts = s.keyCounts := rfl

@[simp] theorem setCtx_dt (c : Nat) (x : Ctx) : (s.setCtx c x).dt = s.dt := rfl
@[simp] theorem setCtx_free (c : Nat) (x : Ctx) : (s.setCtx c x).free = s.free := rfl
@[simp] theorem setCtx_agenda (c : Nat) (x : Ctx) : (s.setCtx c x).agenda = s.agenda := rfl
@[simp] theorem setCtx_input (c : Nat) (x : Ctx) : (s.setCtx c x).input = s.input := rfl
@[simp] theorem setCtx_turn (c : Nat) (x : Ctx) : (s.setCtx c x).turn = s.turn := rfl
@[simp] theorem setCtx_issues (c : Nat) (x : Ctx) : (s.setCtx c x).issues = s.issues := rfl
@[simp] theorem setCtx_mem (c : Nat) (x : Ctx) : (s.setCtx c x).mem = s.mem := rfl
@[simp] theorem setCtx_poison (c : Nat) (x : Ctx) : (s.setCtx c x).poison = s.poison := rfl
@[simp] theorem setCtx_lines (c : Nat) (x : Ctx) : (s.setCtx c x).lines = s.lines := rfl
@[simp] theorem setCtx_accums (c : Nat) (x : Ctx) : (s.setCtx c x).accums = s.accums := rfl
@[simp] theorem setCtx_accs (c : Nat) (x : Ctx) : (s.setCtx c x).accs = s.accs := rfl
@[simp] theorem setCtx_ops (c : Nat) (x : Ctx) : (s.setCtx c x).ops = s.ops := rfl
@[simp] theorem setCtx_nextId (c : Nat) (x : Ctx) : (s.setCtx c x).nextId = s.nextId := rfl
@[simp] theorem setCtx_cores (c : Nat) (x : Ctx) : (s.setCtx c x).cores = s.cores := rfl
@[simp] theorem setCtx_teams (c : Nat) (x : Ctx) : (s.setCtx c x).teams = s.teams := rfl
@[simp] theorem setCtx_copies (c : Nat) (x : Ctx) : (s.setCtx c x).copies = s.copies := rfl
@[simp] theorem setCtx_cards (c : Nat) (x : Ctx) : (s.setCtx c x).cards = s.cards := rfl
@[simp] theorem setCtx_tenants (c : Nat) (x : Ctx) : (s.setCtx c x).tenants = s.tenants := rfl
@[simp] theorem setCtx_saves (c : Nat) (x : Ctx) : (s.setCtx c x).saves = s.saves := rfl
@[simp] theorem setCtx_sources (c : Nat) (x : Ctx) : (s.setCtx c x).sources = s.sources := rfl
@[simp] theorem setCtx_dieTlb (c : Nat) (x : Ctx) : (s.setCtx c x).dieTlb = s.dieTlb := rfl
@[simp] theorem setCtx_trace (c : Nat) (x : Ctx) : (s.setCtx c x).trace = s.trace := rfl
@[simp] theorem setCtx_windex (c : Nat) (x : Ctx) : (s.setCtx c x).windex = s.windex := rfl
@[simp] theorem setCtx_devno (c : Nat) (x : Ctx) : (s.setCtx c x).devno = s.devno := rfl
@[simp] theorem setCtx_sending (c : Nat) (x : Ctx) : (s.setCtx c x).sending = s.sending := rfl
@[simp] theorem setCtx_redo (c : Nat) (x : Ctx) : (s.setCtx c x).redo = s.redo := rfl
@[simp] theorem setCtx_clusters (c : Nat) (x : Ctx) : (s.setCtx c x).clusters = s.clusters := rfl
@[simp] theorem setCtx_fwRunning (c : Nat) (x : Ctx) : (s.setCtx c x).fwRunning = s.fwRunning := rfl
@[simp] theorem setCtx_corrected (c : Nat) (x : Ctx) : (s.setCtx c x).corrected = s.corrected := rfl
@[simp] theorem setCtx_spsize (c : Nat) (x : Ctx) : (s.setCtx c x).spsize = s.spsize := rfl
@[simp] theorem setCtx_replaced (c : Nat) (x : Ctx) : (s.setCtx c x).replaced = s.replaced := rfl
@[simp] theorem setCtx_deferred (c : Nat) (x : Ctx) : (s.setCtx c x).deferred = s.deferred := rfl
@[simp] theorem setCtx_fwVersion (c : Nat) (x : Ctx) : (s.setCtx c x).fwVersion = s.fwVersion := rfl
@[simp] theorem setCtx_fwImage (c : Nat) (x : Ctx) : (s.setCtx c x).fwImage = s.fwImage := rfl
@[simp] theorem setCtx_keyCounts (c : Nat) (x : Ctx) : (s.setCtx c x).keyCounts = s.keyCounts := rfl

@[simp] theorem modCtx_dt (c : Nat) (f : Ctx → Ctx) : (s.modCtx c f).dt = s.dt := rfl
@[simp] theorem modCtx_free (c : Nat) (f : Ctx → Ctx) : (s.modCtx c f).free = s.free := rfl
@[simp] theorem modCtx_agenda (c : Nat) (f : Ctx → Ctx) : (s.modCtx c f).agenda = s.agenda := rfl
@[simp] theorem modCtx_input (c : Nat) (f : Ctx → Ctx) : (s.modCtx c f).input = s.input := rfl
@[simp] theorem modCtx_turn (c : Nat) (f : Ctx → Ctx) : (s.modCtx c f).turn = s.turn := rfl
@[simp] theorem modCtx_issues (c : Nat) (f : Ctx → Ctx) : (s.modCtx c f).issues = s.issues := rfl
@[simp] theorem modCtx_mem (c : Nat) (f : Ctx → Ctx) : (s.modCtx c f).mem = s.mem := rfl
@[simp] theorem modCtx_poison (c : Nat) (f : Ctx → Ctx) : (s.modCtx c f).poison = s.poison := rfl
@[simp] theorem modCtx_lines (c : Nat) (f : Ctx → Ctx) : (s.modCtx c f).lines = s.lines := rfl
@[simp] theorem modCtx_accums (c : Nat) (f : Ctx → Ctx) : (s.modCtx c f).accums = s.accums := rfl
@[simp] theorem modCtx_accs (c : Nat) (f : Ctx → Ctx) : (s.modCtx c f).accs = s.accs := rfl
@[simp] theorem modCtx_ops (c : Nat) (f : Ctx → Ctx) : (s.modCtx c f).ops = s.ops := rfl
@[simp] theorem modCtx_nextId (c : Nat) (f : Ctx → Ctx) : (s.modCtx c f).nextId = s.nextId := rfl
@[simp] theorem modCtx_cores (c : Nat) (f : Ctx → Ctx) : (s.modCtx c f).cores = s.cores := rfl
@[simp] theorem modCtx_teams (c : Nat) (f : Ctx → Ctx) : (s.modCtx c f).teams = s.teams := rfl
@[simp] theorem modCtx_copies (c : Nat) (f : Ctx → Ctx) : (s.modCtx c f).copies = s.copies := rfl
@[simp] theorem modCtx_cards (c : Nat) (f : Ctx → Ctx) : (s.modCtx c f).cards = s.cards := rfl
@[simp] theorem modCtx_tenants (c : Nat) (f : Ctx → Ctx) : (s.modCtx c f).tenants = s.tenants := rfl
@[simp] theorem modCtx_saves (c : Nat) (f : Ctx → Ctx) : (s.modCtx c f).saves = s.saves := rfl
@[simp] theorem modCtx_sources (c : Nat) (f : Ctx → Ctx) : (s.modCtx c f).sources = s.sources := rfl
@[simp] theorem modCtx_dieTlb (c : Nat) (f : Ctx → Ctx) : (s.modCtx c f).dieTlb = s.dieTlb := rfl
@[simp] theorem modCtx_trace (c : Nat) (f : Ctx → Ctx) : (s.modCtx c f).trace = s.trace := rfl
@[simp] theorem modCtx_windex (c : Nat) (f : Ctx → Ctx) : (s.modCtx c f).windex = s.windex := rfl
@[simp] theorem modCtx_devno (c : Nat) (f : Ctx → Ctx) : (s.modCtx c f).devno = s.devno := rfl
@[simp] theorem modCtx_sending (c : Nat) (f : Ctx → Ctx) : (s.modCtx c f).sending = s.sending := rfl
@[simp] theorem modCtx_redo (c : Nat) (f : Ctx → Ctx) : (s.modCtx c f).redo = s.redo := rfl
@[simp] theorem modCtx_clusters (c : Nat) (f : Ctx → Ctx) : (s.modCtx c f).clusters = s.clusters := rfl
@[simp] theorem modCtx_fwRunning (c : Nat) (f : Ctx → Ctx) : (s.modCtx c f).fwRunning = s.fwRunning := rfl
@[simp] theorem modCtx_corrected (c : Nat) (f : Ctx → Ctx) : (s.modCtx c f).corrected = s.corrected := rfl
@[simp] theorem modCtx_spsize (c : Nat) (f : Ctx → Ctx) : (s.modCtx c f).spsize = s.spsize := rfl
@[simp] theorem modCtx_replaced (c : Nat) (f : Ctx → Ctx) : (s.modCtx c f).replaced = s.replaced := rfl
@[simp] theorem modCtx_deferred (c : Nat) (f : Ctx → Ctx) : (s.modCtx c f).deferred = s.deferred := rfl
@[simp] theorem modCtx_fwVersion (c : Nat) (f : Ctx → Ctx) : (s.modCtx c f).fwVersion = s.fwVersion := rfl
@[simp] theorem modCtx_fwImage (c : Nat) (f : Ctx → Ctx) : (s.modCtx c f).fwImage = s.fwImage := rfl
@[simp] theorem modCtx_keyCounts (c : Nat) (f : Ctx → Ctx) : (s.modCtx c f).keyCounts = s.keyCounts := rfl

@[simp] theorem setTenant_dt (t : Nat) (x : Tenant) : (s.setTenant t x).dt = s.dt := rfl
@[simp] theorem setTenant_free (t : Nat) (x : Tenant) : (s.setTenant t x).free = s.free := rfl
@[simp] theorem setTenant_agenda (t : Nat) (x : Tenant) : (s.setTenant t x).agenda = s.agenda := rfl
@[simp] theorem setTenant_input (t : Nat) (x : Tenant) : (s.setTenant t x).input = s.input := rfl
@[simp] theorem setTenant_turn (t : Nat) (x : Tenant) : (s.setTenant t x).turn = s.turn := rfl
@[simp] theorem setTenant_issues (t : Nat) (x : Tenant) : (s.setTenant t x).issues = s.issues := rfl
@[simp] theorem setTenant_mem (t : Nat) (x : Tenant) : (s.setTenant t x).mem = s.mem := rfl
@[simp] theorem setTenant_poison (t : Nat) (x : Tenant) : (s.setTenant t x).poison = s.poison := rfl
@[simp] theorem setTenant_lines (t : Nat) (x : Tenant) : (s.setTenant t x).lines = s.lines := rfl
@[simp] theorem setTenant_accums (t : Nat) (x : Tenant) : (s.setTenant t x).accums = s.accums := rfl
@[simp] theorem setTenant_accs (t : Nat) (x : Tenant) : (s.setTenant t x).accs = s.accs := rfl
@[simp] theorem setTenant_ops (t : Nat) (x : Tenant) : (s.setTenant t x).ops = s.ops := rfl
@[simp] theorem setTenant_nextId (t : Nat) (x : Tenant) : (s.setTenant t x).nextId = s.nextId := rfl
@[simp] theorem setTenant_cores (t : Nat) (x : Tenant) : (s.setTenant t x).cores = s.cores := rfl
@[simp] theorem setTenant_teams (t : Nat) (x : Tenant) : (s.setTenant t x).teams = s.teams := rfl
@[simp] theorem setTenant_copies (t : Nat) (x : Tenant) : (s.setTenant t x).copies = s.copies := rfl
@[simp] theorem setTenant_cards (t : Nat) (x : Tenant) : (s.setTenant t x).cards = s.cards := rfl
@[simp] theorem setTenant_ctxs (t : Nat) (x : Tenant) : (s.setTenant t x).ctxs = s.ctxs := rfl
@[simp] theorem setTenant_saves (t : Nat) (x : Tenant) : (s.setTenant t x).saves = s.saves := rfl
@[simp] theorem setTenant_sources (t : Nat) (x : Tenant) : (s.setTenant t x).sources = s.sources := rfl
@[simp] theorem setTenant_dieTlb (t : Nat) (x : Tenant) : (s.setTenant t x).dieTlb = s.dieTlb := rfl
@[simp] theorem setTenant_trace (t : Nat) (x : Tenant) : (s.setTenant t x).trace = s.trace := rfl
@[simp] theorem setTenant_windex (t : Nat) (x : Tenant) : (s.setTenant t x).windex = s.windex := rfl
@[simp] theorem setTenant_devno (t : Nat) (x : Tenant) : (s.setTenant t x).devno = s.devno := rfl
@[simp] theorem setTenant_sending (t : Nat) (x : Tenant) : (s.setTenant t x).sending = s.sending := rfl
@[simp] theorem setTenant_redo (t : Nat) (x : Tenant) : (s.setTenant t x).redo = s.redo := rfl
@[simp] theorem setTenant_clusters (t : Nat) (x : Tenant) : (s.setTenant t x).clusters = s.clusters := rfl
@[simp] theorem setTenant_fwRunning (t : Nat) (x : Tenant) : (s.setTenant t x).fwRunning = s.fwRunning := rfl
@[simp] theorem setTenant_corrected (t : Nat) (x : Tenant) : (s.setTenant t x).corrected = s.corrected := rfl
@[simp] theorem setTenant_spsize (t : Nat) (x : Tenant) : (s.setTenant t x).spsize = s.spsize := rfl
@[simp] theorem setTenant_replaced (t : Nat) (x : Tenant) : (s.setTenant t x).replaced = s.replaced := rfl
@[simp] theorem setTenant_deferred (t : Nat) (x : Tenant) : (s.setTenant t x).deferred = s.deferred := rfl
@[simp] theorem setTenant_fwVersion (t : Nat) (x : Tenant) : (s.setTenant t x).fwVersion = s.fwVersion := rfl
@[simp] theorem setTenant_fwImage (t : Nat) (x : Tenant) : (s.setTenant t x).fwImage = s.fwImage := rfl
@[simp] theorem setTenant_keyCounts (t : Nat) (x : Tenant) : (s.setTenant t x).keyCounts = s.keyCounts := rfl

@[simp] theorem setLine_dt (l : Nat) (x : Line) : (s.setLine l x).dt = s.dt := rfl
@[simp] theorem setLine_free (l : Nat) (x : Line) : (s.setLine l x).free = s.free := rfl
@[simp] theorem setLine_agenda (l : Nat) (x : Line) : (s.setLine l x).agenda = s.agenda := rfl
@[simp] theorem setLine_input (l : Nat) (x : Line) : (s.setLine l x).input = s.input := rfl
@[simp] theorem setLine_turn (l : Nat) (x : Line) : (s.setLine l x).turn = s.turn := rfl
@[simp] theorem setLine_issues (l : Nat) (x : Line) : (s.setLine l x).issues = s.issues := rfl
@[simp] theorem setLine_mem (l : Nat) (x : Line) : (s.setLine l x).mem = s.mem := rfl
@[simp] theorem setLine_poison (l : Nat) (x : Line) : (s.setLine l x).poison = s.poison := rfl
@[simp] theorem setLine_accums (l : Nat) (x : Line) : (s.setLine l x).accums = s.accums := rfl
@[simp] theorem setLine_accs (l : Nat) (x : Line) : (s.setLine l x).accs = s.accs := rfl
@[simp] theorem setLine_ops (l : Nat) (x : Line) : (s.setLine l x).ops = s.ops := rfl
@[simp] theorem setLine_nextId (l : Nat) (x : Line) : (s.setLine l x).nextId = s.nextId := rfl
@[simp] theorem setLine_cores (l : Nat) (x : Line) : (s.setLine l x).cores = s.cores := rfl
@[simp] theorem setLine_teams (l : Nat) (x : Line) : (s.setLine l x).teams = s.teams := rfl
@[simp] theorem setLine_copies (l : Nat) (x : Line) : (s.setLine l x).copies = s.copies := rfl
@[simp] theorem setLine_cards (l : Nat) (x : Line) : (s.setLine l x).cards = s.cards := rfl
@[simp] theorem setLine_ctxs (l : Nat) (x : Line) : (s.setLine l x).ctxs = s.ctxs := rfl
@[simp] theorem setLine_tenants (l : Nat) (x : Line) : (s.setLine l x).tenants = s.tenants := rfl
@[simp] theorem setLine_saves (l : Nat) (x : Line) : (s.setLine l x).saves = s.saves := rfl
@[simp] theorem setLine_sources (l : Nat) (x : Line) : (s.setLine l x).sources = s.sources := rfl
@[simp] theorem setLine_dieTlb (l : Nat) (x : Line) : (s.setLine l x).dieTlb = s.dieTlb := rfl
@[simp] theorem setLine_trace (l : Nat) (x : Line) : (s.setLine l x).trace = s.trace := rfl
@[simp] theorem setLine_windex (l : Nat) (x : Line) : (s.setLine l x).windex = s.windex := rfl
@[simp] theorem setLine_devno (l : Nat) (x : Line) : (s.setLine l x).devno = s.devno := rfl
@[simp] theorem setLine_sending (l : Nat) (x : Line) : (s.setLine l x).sending = s.sending := rfl
@[simp] theorem setLine_redo (l : Nat) (x : Line) : (s.setLine l x).redo = s.redo := rfl
@[simp] theorem setLine_clusters (l : Nat) (x : Line) : (s.setLine l x).clusters = s.clusters := rfl
@[simp] theorem setLine_fwRunning (l : Nat) (x : Line) : (s.setLine l x).fwRunning = s.fwRunning := rfl
@[simp] theorem setLine_corrected (l : Nat) (x : Line) : (s.setLine l x).corrected = s.corrected := rfl
@[simp] theorem setLine_spsize (l : Nat) (x : Line) : (s.setLine l x).spsize = s.spsize := rfl
@[simp] theorem setLine_replaced (l : Nat) (x : Line) : (s.setLine l x).replaced = s.replaced := rfl
@[simp] theorem setLine_deferred (l : Nat) (x : Line) : (s.setLine l x).deferred = s.deferred := rfl
@[simp] theorem setLine_fwVersion (l : Nat) (x : Line) : (s.setLine l x).fwVersion = s.fwVersion := rfl
@[simp] theorem setLine_fwImage (l : Nat) (x : Line) : (s.setLine l x).fwImage = s.fwImage := rfl
@[simp] theorem setLine_keyCounts (l : Nat) (x : Line) : (s.setLine l x).keyCounts = s.keyCounts := rfl

@[simp] theorem setSlot_dt (tk : Nat) (x : Slot) : (s.setSlot tk x).dt = s.dt := rfl
@[simp] theorem setSlot_free (tk : Nat) (x : Slot) : (s.setSlot tk x).free = s.free := rfl
@[simp] theorem setSlot_agenda (tk : Nat) (x : Slot) : (s.setSlot tk x).agenda = s.agenda := rfl
@[simp] theorem setSlot_input (tk : Nat) (x : Slot) : (s.setSlot tk x).input = s.input := rfl
@[simp] theorem setSlot_turn (tk : Nat) (x : Slot) : (s.setSlot tk x).turn = s.turn := rfl
@[simp] theorem setSlot_issues (tk : Nat) (x : Slot) : (s.setSlot tk x).issues = s.issues := rfl
@[simp] theorem setSlot_mem (tk : Nat) (x : Slot) : (s.setSlot tk x).mem = s.mem := rfl
@[simp] theorem setSlot_poison (tk : Nat) (x : Slot) : (s.setSlot tk x).poison = s.poison := rfl
@[simp] theorem setSlot_lines (tk : Nat) (x : Slot) : (s.setSlot tk x).lines = s.lines := rfl
@[simp] theorem setSlot_accums (tk : Nat) (x : Slot) : (s.setSlot tk x).accums = s.accums := rfl
@[simp] theorem setSlot_accs (tk : Nat) (x : Slot) : (s.setSlot tk x).accs = s.accs := rfl
@[simp] theorem setSlot_ops (tk : Nat) (x : Slot) : (s.setSlot tk x).ops = s.ops := rfl
@[simp] theorem setSlot_nextId (tk : Nat) (x : Slot) : (s.setSlot tk x).nextId = s.nextId := rfl
@[simp] theorem setSlot_teams (tk : Nat) (x : Slot) : (s.setSlot tk x).teams = s.teams := rfl
@[simp] theorem setSlot_copies (tk : Nat) (x : Slot) : (s.setSlot tk x).copies = s.copies := rfl
@[simp] theorem setSlot_cards (tk : Nat) (x : Slot) : (s.setSlot tk x).cards = s.cards := rfl
@[simp] theorem setSlot_ctxs (tk : Nat) (x : Slot) : (s.setSlot tk x).ctxs = s.ctxs := rfl
@[simp] theorem setSlot_tenants (tk : Nat) (x : Slot) : (s.setSlot tk x).tenants = s.tenants := rfl
@[simp] theorem setSlot_saves (tk : Nat) (x : Slot) : (s.setSlot tk x).saves = s.saves := rfl
@[simp] theorem setSlot_sources (tk : Nat) (x : Slot) : (s.setSlot tk x).sources = s.sources := rfl
@[simp] theorem setSlot_dieTlb (tk : Nat) (x : Slot) : (s.setSlot tk x).dieTlb = s.dieTlb := rfl
@[simp] theorem setSlot_trace (tk : Nat) (x : Slot) : (s.setSlot tk x).trace = s.trace := rfl
@[simp] theorem setSlot_windex (tk : Nat) (x : Slot) : (s.setSlot tk x).windex = s.windex := rfl
@[simp] theorem setSlot_devno (tk : Nat) (x : Slot) : (s.setSlot tk x).devno = s.devno := rfl
@[simp] theorem setSlot_sending (tk : Nat) (x : Slot) : (s.setSlot tk x).sending = s.sending := rfl
@[simp] theorem setSlot_redo (tk : Nat) (x : Slot) : (s.setSlot tk x).redo = s.redo := rfl
@[simp] theorem setSlot_clusters (tk : Nat) (x : Slot) : (s.setSlot tk x).clusters = s.clusters := rfl
@[simp] theorem setSlot_fwRunning (tk : Nat) (x : Slot) : (s.setSlot tk x).fwRunning = s.fwRunning := rfl
@[simp] theorem setSlot_corrected (tk : Nat) (x : Slot) : (s.setSlot tk x).corrected = s.corrected := rfl
@[simp] theorem setSlot_spsize (tk : Nat) (x : Slot) : (s.setSlot tk x).spsize = s.spsize := rfl
@[simp] theorem setSlot_replaced (tk : Nat) (x : Slot) : (s.setSlot tk x).replaced = s.replaced := rfl
@[simp] theorem setSlot_deferred (tk : Nat) (x : Slot) : (s.setSlot tk x).deferred = s.deferred := rfl
@[simp] theorem setSlot_fwVersion (tk : Nat) (x : Slot) : (s.setSlot tk x).fwVersion = s.fwVersion := rfl
@[simp] theorem setSlot_fwImage (tk : Nat) (x : Slot) : (s.setSlot tk x).fwImage = s.fwImage := rfl
@[simp] theorem setSlot_keyCounts (tk : Nat) (x : Slot) : (s.setSlot tk x).keyCounts = s.keyCounts := rfl

@[simp] theorem modAcc_dt (id : Nat) (f : Access → Access) : (s.modAcc id f).dt = s.dt := rfl
@[simp] theorem modAcc_free (id : Nat) (f : Access → Access) : (s.modAcc id f).free = s.free := rfl
@[simp] theorem modAcc_agenda (id : Nat) (f : Access → Access) : (s.modAcc id f).agenda = s.agenda := rfl
@[simp] theorem modAcc_input (id : Nat) (f : Access → Access) : (s.modAcc id f).input = s.input := rfl
@[simp] theorem modAcc_turn (id : Nat) (f : Access → Access) : (s.modAcc id f).turn = s.turn := rfl
@[simp] theorem modAcc_issues (id : Nat) (f : Access → Access) : (s.modAcc id f).issues = s.issues := rfl
@[simp] theorem modAcc_mem (id : Nat) (f : Access → Access) : (s.modAcc id f).mem = s.mem := rfl
@[simp] theorem modAcc_poison (id : Nat) (f : Access → Access) : (s.modAcc id f).poison = s.poison := rfl
@[simp] theorem modAcc_lines (id : Nat) (f : Access → Access) : (s.modAcc id f).lines = s.lines := rfl
@[simp] theorem modAcc_accums (id : Nat) (f : Access → Access) : (s.modAcc id f).accums = s.accums := rfl
@[simp] theorem modAcc_ops (id : Nat) (f : Access → Access) : (s.modAcc id f).ops = s.ops := rfl
@[simp] theorem modAcc_nextId (id : Nat) (f : Access → Access) : (s.modAcc id f).nextId = s.nextId := rfl
@[simp] theorem modAcc_cores (id : Nat) (f : Access → Access) : (s.modAcc id f).cores = s.cores := rfl
@[simp] theorem modAcc_teams (id : Nat) (f : Access → Access) : (s.modAcc id f).teams = s.teams := rfl
@[simp] theorem modAcc_copies (id : Nat) (f : Access → Access) : (s.modAcc id f).copies = s.copies := rfl
@[simp] theorem modAcc_cards (id : Nat) (f : Access → Access) : (s.modAcc id f).cards = s.cards := rfl
@[simp] theorem modAcc_ctxs (id : Nat) (f : Access → Access) : (s.modAcc id f).ctxs = s.ctxs := rfl
@[simp] theorem modAcc_tenants (id : Nat) (f : Access → Access) : (s.modAcc id f).tenants = s.tenants := rfl
@[simp] theorem modAcc_saves (id : Nat) (f : Access → Access) : (s.modAcc id f).saves = s.saves := rfl
@[simp] theorem modAcc_sources (id : Nat) (f : Access → Access) : (s.modAcc id f).sources = s.sources := rfl
@[simp] theorem modAcc_dieTlb (id : Nat) (f : Access → Access) : (s.modAcc id f).dieTlb = s.dieTlb := rfl
@[simp] theorem modAcc_trace (id : Nat) (f : Access → Access) : (s.modAcc id f).trace = s.trace := rfl
@[simp] theorem modAcc_windex (id : Nat) (f : Access → Access) : (s.modAcc id f).windex = s.windex := rfl
@[simp] theorem modAcc_devno (id : Nat) (f : Access → Access) : (s.modAcc id f).devno = s.devno := rfl
@[simp] theorem modAcc_sending (id : Nat) (f : Access → Access) : (s.modAcc id f).sending = s.sending := rfl
@[simp] theorem modAcc_redo (id : Nat) (f : Access → Access) : (s.modAcc id f).redo = s.redo := rfl
@[simp] theorem modAcc_clusters (id : Nat) (f : Access → Access) : (s.modAcc id f).clusters = s.clusters := rfl
@[simp] theorem modAcc_fwRunning (id : Nat) (f : Access → Access) : (s.modAcc id f).fwRunning = s.fwRunning := rfl
@[simp] theorem modAcc_corrected (id : Nat) (f : Access → Access) : (s.modAcc id f).corrected = s.corrected := rfl
@[simp] theorem modAcc_spsize (id : Nat) (f : Access → Access) : (s.modAcc id f).spsize = s.spsize := rfl
@[simp] theorem modAcc_replaced (id : Nat) (f : Access → Access) : (s.modAcc id f).replaced = s.replaced := rfl
@[simp] theorem modAcc_deferred (id : Nat) (f : Access → Access) : (s.modAcc id f).deferred = s.deferred := rfl
@[simp] theorem modAcc_fwVersion (id : Nat) (f : Access → Access) : (s.modAcc id f).fwVersion = s.fwVersion := rfl
@[simp] theorem modAcc_fwImage (id : Nat) (f : Access → Access) : (s.modAcc id f).fwImage = s.fwImage := rfl
@[simp] theorem modAcc_keyCounts (id : Nat) (f : Access → Access) : (s.modAcc id f).keyCounts = s.keyCounts := rfl

@[simp] theorem push_dt (i : Instr) : (s.push i).dt = s.dt := rfl
@[simp] theorem push_free (i : Instr) : (s.push i).free = s.free := rfl
@[simp] theorem push_input (i : Instr) : (s.push i).input = s.input := rfl
@[simp] theorem push_turn (i : Instr) : (s.push i).turn = s.turn := rfl
@[simp] theorem push_issues (i : Instr) : (s.push i).issues = s.issues := rfl
@[simp] theorem push_mem (i : Instr) : (s.push i).mem = s.mem := rfl
@[simp] theorem push_poison (i : Instr) : (s.push i).poison = s.poison := rfl
@[simp] theorem push_lines (i : Instr) : (s.push i).lines = s.lines := rfl
@[simp] theorem push_accums (i : Instr) : (s.push i).accums = s.accums := rfl
@[simp] theorem push_accs (i : Instr) : (s.push i).accs = s.accs := rfl
@[simp] theorem push_ops (i : Instr) : (s.push i).ops = s.ops := rfl
@[simp] theorem push_nextId (i : Instr) : (s.push i).nextId = s.nextId := rfl
@[simp] theorem push_cores (i : Instr) : (s.push i).cores = s.cores := rfl
@[simp] theorem push_teams (i : Instr) : (s.push i).teams = s.teams := rfl
@[simp] theorem push_copies (i : Instr) : (s.push i).copies = s.copies := rfl
@[simp] theorem push_cards (i : Instr) : (s.push i).cards = s.cards := rfl
@[simp] theorem push_ctxs (i : Instr) : (s.push i).ctxs = s.ctxs := rfl
@[simp] theorem push_tenants (i : Instr) : (s.push i).tenants = s.tenants := rfl
@[simp] theorem push_saves (i : Instr) : (s.push i).saves = s.saves := rfl
@[simp] theorem push_sources (i : Instr) : (s.push i).sources = s.sources := rfl
@[simp] theorem push_dieTlb (i : Instr) : (s.push i).dieTlb = s.dieTlb := rfl
@[simp] theorem push_trace (i : Instr) : (s.push i).trace = s.trace := rfl
@[simp] theorem push_windex (i : Instr) : (s.push i).windex = s.windex := rfl
@[simp] theorem push_devno (i : Instr) : (s.push i).devno = s.devno := rfl
@[simp] theorem push_sending (i : Instr) : (s.push i).sending = s.sending := rfl
@[simp] theorem push_redo (i : Instr) : (s.push i).redo = s.redo := rfl
@[simp] theorem push_clusters (i : Instr) : (s.push i).clusters = s.clusters := rfl
@[simp] theorem push_fwRunning (i : Instr) : (s.push i).fwRunning = s.fwRunning := rfl
@[simp] theorem push_corrected (i : Instr) : (s.push i).corrected = s.corrected := rfl
@[simp] theorem push_spsize (i : Instr) : (s.push i).spsize = s.spsize := rfl
@[simp] theorem push_replaced (i : Instr) : (s.push i).replaced = s.replaced := rfl
@[simp] theorem push_deferred (i : Instr) : (s.push i).deferred = s.deferred := rfl
@[simp] theorem push_fwVersion (i : Instr) : (s.push i).fwVersion = s.fwVersion := rfl
@[simp] theorem push_fwImage (i : Instr) : (s.push i).fwImage = s.fwImage := rfl
@[simp] theorem push_keyCounts (i : Instr) : (s.push i).keyCounts = s.keyCounts := rfl

@[simp] theorem setV_dt (tk g t n : Nat) (x : PWord) : (s.setV tk g t n x).dt = s.dt := rfl
@[simp] theorem setV_free (tk g t n : Nat) (x : PWord) : (s.setV tk g t n x).free = s.free := rfl
@[simp] theorem setV_agenda (tk g t n : Nat) (x : PWord) : (s.setV tk g t n x).agenda = s.agenda := rfl
@[simp] theorem setV_input (tk g t n : Nat) (x : PWord) : (s.setV tk g t n x).input = s.input := rfl
@[simp] theorem setV_turn (tk g t n : Nat) (x : PWord) : (s.setV tk g t n x).turn = s.turn := rfl
@[simp] theorem setV_issues (tk g t n : Nat) (x : PWord) : (s.setV tk g t n x).issues = s.issues := rfl
@[simp] theorem setV_mem (tk g t n : Nat) (x : PWord) : (s.setV tk g t n x).mem = s.mem := rfl
@[simp] theorem setV_poison (tk g t n : Nat) (x : PWord) : (s.setV tk g t n x).poison = s.poison := rfl
@[simp] theorem setV_lines (tk g t n : Nat) (x : PWord) : (s.setV tk g t n x).lines = s.lines := rfl
@[simp] theorem setV_accums (tk g t n : Nat) (x : PWord) : (s.setV tk g t n x).accums = s.accums := rfl
@[simp] theorem setV_accs (tk g t n : Nat) (x : PWord) : (s.setV tk g t n x).accs = s.accs := rfl
@[simp] theorem setV_ops (tk g t n : Nat) (x : PWord) : (s.setV tk g t n x).ops = s.ops := rfl
@[simp] theorem setV_nextId (tk g t n : Nat) (x : PWord) : (s.setV tk g t n x).nextId = s.nextId := rfl
@[simp] theorem setV_cores (tk g t n : Nat) (x : PWord) : (s.setV tk g t n x).cores = s.cores := rfl
@[simp] theorem setV_copies (tk g t n : Nat) (x : PWord) : (s.setV tk g t n x).copies = s.copies := rfl
@[simp] theorem setV_cards (tk g t n : Nat) (x : PWord) : (s.setV tk g t n x).cards = s.cards := rfl
@[simp] theorem setV_ctxs (tk g t n : Nat) (x : PWord) : (s.setV tk g t n x).ctxs = s.ctxs := rfl
@[simp] theorem setV_tenants (tk g t n : Nat) (x : PWord) : (s.setV tk g t n x).tenants = s.tenants := rfl
@[simp] theorem setV_saves (tk g t n : Nat) (x : PWord) : (s.setV tk g t n x).saves = s.saves := rfl
@[simp] theorem setV_sources (tk g t n : Nat) (x : PWord) : (s.setV tk g t n x).sources = s.sources := rfl
@[simp] theorem setV_dieTlb (tk g t n : Nat) (x : PWord) : (s.setV tk g t n x).dieTlb = s.dieTlb := rfl
@[simp] theorem setV_trace (tk g t n : Nat) (x : PWord) : (s.setV tk g t n x).trace = s.trace := rfl
@[simp] theorem setV_windex (tk g t n : Nat) (x : PWord) : (s.setV tk g t n x).windex = s.windex := rfl
@[simp] theorem setV_devno (tk g t n : Nat) (x : PWord) : (s.setV tk g t n x).devno = s.devno := rfl
@[simp] theorem setV_sending (tk g t n : Nat) (x : PWord) : (s.setV tk g t n x).sending = s.sending := rfl
@[simp] theorem setV_redo (tk g t n : Nat) (x : PWord) : (s.setV tk g t n x).redo = s.redo := rfl
@[simp] theorem setV_clusters (tk g t n : Nat) (x : PWord) : (s.setV tk g t n x).clusters = s.clusters := rfl
@[simp] theorem setV_fwRunning (tk g t n : Nat) (x : PWord) : (s.setV tk g t n x).fwRunning = s.fwRunning := rfl
@[simp] theorem setV_corrected (tk g t n : Nat) (x : PWord) : (s.setV tk g t n x).corrected = s.corrected := rfl
@[simp] theorem setV_spsize (tk g t n : Nat) (x : PWord) : (s.setV tk g t n x).spsize = s.spsize := rfl
@[simp] theorem setV_replaced (tk g t n : Nat) (x : PWord) : (s.setV tk g t n x).replaced = s.replaced := rfl
@[simp] theorem setV_deferred (tk g t n : Nat) (x : PWord) : (s.setV tk g t n x).deferred = s.deferred := rfl
@[simp] theorem setV_fwVersion (tk g t n : Nat) (x : PWord) : (s.setV tk g t n x).fwVersion = s.fwVersion := rfl
@[simp] theorem setV_fwImage (tk g t n : Nat) (x : PWord) : (s.setV tk g t n x).fwImage = s.fwImage := rfl
@[simp] theorem setV_keyCounts (tk g t n : Nat) (x : PWord) : (s.setV tk g t n x).keyCounts = s.keyCounts := rfl

@[simp] theorem setS_dt (tk g n : Nat) (x : PWord) : (s.setS tk g n x).dt = s.dt := rfl
@[simp] theorem setS_free (tk g n : Nat) (x : PWord) : (s.setS tk g n x).free = s.free := rfl
@[simp] theorem setS_agenda (tk g n : Nat) (x : PWord) : (s.setS tk g n x).agenda = s.agenda := rfl
@[simp] theorem setS_input (tk g n : Nat) (x : PWord) : (s.setS tk g n x).input = s.input := rfl
@[simp] theorem setS_turn (tk g n : Nat) (x : PWord) : (s.setS tk g n x).turn = s.turn := rfl
@[simp] theorem setS_issues (tk g n : Nat) (x : PWord) : (s.setS tk g n x).issues = s.issues := rfl
@[simp] theorem setS_mem (tk g n : Nat) (x : PWord) : (s.setS tk g n x).mem = s.mem := rfl
@[simp] theorem setS_poison (tk g n : Nat) (x : PWord) : (s.setS tk g n x).poison = s.poison := rfl
@[simp] theorem setS_lines (tk g n : Nat) (x : PWord) : (s.setS tk g n x).lines = s.lines := rfl
@[simp] theorem setS_accums (tk g n : Nat) (x : PWord) : (s.setS tk g n x).accums = s.accums := rfl
@[simp] theorem setS_accs (tk g n : Nat) (x : PWord) : (s.setS tk g n x).accs = s.accs := rfl
@[simp] theorem setS_ops (tk g n : Nat) (x : PWord) : (s.setS tk g n x).ops = s.ops := rfl
@[simp] theorem setS_nextId (tk g n : Nat) (x : PWord) : (s.setS tk g n x).nextId = s.nextId := rfl
@[simp] theorem setS_cores (tk g n : Nat) (x : PWord) : (s.setS tk g n x).cores = s.cores := rfl
@[simp] theorem setS_copies (tk g n : Nat) (x : PWord) : (s.setS tk g n x).copies = s.copies := rfl
@[simp] theorem setS_cards (tk g n : Nat) (x : PWord) : (s.setS tk g n x).cards = s.cards := rfl
@[simp] theorem setS_ctxs (tk g n : Nat) (x : PWord) : (s.setS tk g n x).ctxs = s.ctxs := rfl
@[simp] theorem setS_tenants (tk g n : Nat) (x : PWord) : (s.setS tk g n x).tenants = s.tenants := rfl
@[simp] theorem setS_saves (tk g n : Nat) (x : PWord) : (s.setS tk g n x).saves = s.saves := rfl
@[simp] theorem setS_sources (tk g n : Nat) (x : PWord) : (s.setS tk g n x).sources = s.sources := rfl
@[simp] theorem setS_dieTlb (tk g n : Nat) (x : PWord) : (s.setS tk g n x).dieTlb = s.dieTlb := rfl
@[simp] theorem setS_trace (tk g n : Nat) (x : PWord) : (s.setS tk g n x).trace = s.trace := rfl
@[simp] theorem setS_windex (tk g n : Nat) (x : PWord) : (s.setS tk g n x).windex = s.windex := rfl
@[simp] theorem setS_devno (tk g n : Nat) (x : PWord) : (s.setS tk g n x).devno = s.devno := rfl
@[simp] theorem setS_sending (tk g n : Nat) (x : PWord) : (s.setS tk g n x).sending = s.sending := rfl
@[simp] theorem setS_redo (tk g n : Nat) (x : PWord) : (s.setS tk g n x).redo = s.redo := rfl
@[simp] theorem setS_clusters (tk g n : Nat) (x : PWord) : (s.setS tk g n x).clusters = s.clusters := rfl
@[simp] theorem setS_fwRunning (tk g n : Nat) (x : PWord) : (s.setS tk g n x).fwRunning = s.fwRunning := rfl
@[simp] theorem setS_corrected (tk g n : Nat) (x : PWord) : (s.setS tk g n x).corrected = s.corrected := rfl
@[simp] theorem setS_spsize (tk g n : Nat) (x : PWord) : (s.setS tk g n x).spsize = s.spsize := rfl
@[simp] theorem setS_replaced (tk g n : Nat) (x : PWord) : (s.setS tk g n x).replaced = s.replaced := rfl
@[simp] theorem setS_deferred (tk g n : Nat) (x : PWord) : (s.setS tk g n x).deferred = s.deferred := rfl
@[simp] theorem setS_fwVersion (tk g n : Nat) (x : PWord) : (s.setS tk g n x).fwVersion = s.fwVersion := rfl
@[simp] theorem setS_fwImage (tk g n : Nat) (x : PWord) : (s.setS tk g n x).fwImage = s.fwImage := rfl
@[simp] theorem setS_keyCounts (tk g n : Nat) (x : PWord) : (s.setS tk g n x).keyCounts = s.keyCounts := rfl

@[simp] theorem fresh_dt : s.fresh.2.dt = s.dt := rfl
@[simp] theorem fresh_free : s.fresh.2.free = s.free := rfl
@[simp] theorem fresh_agenda : s.fresh.2.agenda = s.agenda := rfl
@[simp] theorem fresh_input : s.fresh.2.input = s.input := rfl
@[simp] theorem fresh_turn : s.fresh.2.turn = s.turn := rfl
@[simp] theorem fresh_issues : s.fresh.2.issues = s.issues := rfl
@[simp] theorem fresh_mem : s.fresh.2.mem = s.mem := rfl
@[simp] theorem fresh_poison : s.fresh.2.poison = s.poison := rfl
@[simp] theorem fresh_lines : s.fresh.2.lines = s.lines := rfl
@[simp] theorem fresh_accums : s.fresh.2.accums = s.accums := rfl
@[simp] theorem fresh_accs : s.fresh.2.accs = s.accs := rfl
@[simp] theorem fresh_ops : s.fresh.2.ops = s.ops := rfl
@[simp] theorem fresh_cores : s.fresh.2.cores = s.cores := rfl
@[simp] theorem fresh_teams : s.fresh.2.teams = s.teams := rfl
@[simp] theorem fresh_copies : s.fresh.2.copies = s.copies := rfl
@[simp] theorem fresh_cards : s.fresh.2.cards = s.cards := rfl
@[simp] theorem fresh_ctxs : s.fresh.2.ctxs = s.ctxs := rfl
@[simp] theorem fresh_tenants : s.fresh.2.tenants = s.tenants := rfl
@[simp] theorem fresh_saves : s.fresh.2.saves = s.saves := rfl
@[simp] theorem fresh_sources : s.fresh.2.sources = s.sources := rfl
@[simp] theorem fresh_dieTlb : s.fresh.2.dieTlb = s.dieTlb := rfl
@[simp] theorem fresh_trace : s.fresh.2.trace = s.trace := rfl
@[simp] theorem fresh_windex : s.fresh.2.windex = s.windex := rfl
@[simp] theorem fresh_devno : s.fresh.2.devno = s.devno := rfl
@[simp] theorem fresh_sending : s.fresh.2.sending = s.sending := rfl
@[simp] theorem fresh_redo : s.fresh.2.redo = s.redo := rfl
@[simp] theorem fresh_clusters : s.fresh.2.clusters = s.clusters := rfl
@[simp] theorem fresh_fwRunning : s.fresh.2.fwRunning = s.fwRunning := rfl
@[simp] theorem fresh_corrected : s.fresh.2.corrected = s.corrected := rfl
@[simp] theorem fresh_spsize : s.fresh.2.spsize = s.spsize := rfl
@[simp] theorem fresh_replaced : s.fresh.2.replaced = s.replaced := rfl
@[simp] theorem fresh_deferred : s.fresh.2.deferred = s.deferred := rfl
@[simp] theorem fresh_fwVersion : s.fresh.2.fwVersion = s.fwVersion := rfl
@[simp] theorem fresh_fwImage : s.fresh.2.fwImage = s.fwImage := rfl
@[simp] theorem fresh_keyCounts : s.fresh.2.keyCounts = s.keyCounts := rfl
@[simp] theorem fresh_id : s.fresh.1 = s.nextId := rfl
@[simp] theorem fresh_nextId : s.fresh.2.nextId = s.nextId + 1 := rfl

@[simp] theorem draw_dt : s.draw.2.dt = s.dt := rfl
@[simp] theorem draw_agenda : s.draw.2.agenda = s.agenda := rfl
@[simp] theorem draw_input : s.draw.2.input = s.input := rfl
@[simp] theorem draw_turn : s.draw.2.turn = s.turn := rfl
@[simp] theorem draw_issues : s.draw.2.issues = s.issues := rfl
@[simp] theorem draw_mem : s.draw.2.mem = s.mem := rfl
@[simp] theorem draw_poison : s.draw.2.poison = s.poison := rfl
@[simp] theorem draw_lines : s.draw.2.lines = s.lines := rfl
@[simp] theorem draw_accums : s.draw.2.accums = s.accums := rfl
@[simp] theorem draw_accs : s.draw.2.accs = s.accs := rfl
@[simp] theorem draw_ops : s.draw.2.ops = s.ops := rfl
@[simp] theorem draw_nextId : s.draw.2.nextId = s.nextId := rfl
@[simp] theorem draw_cores : s.draw.2.cores = s.cores := rfl
@[simp] theorem draw_teams : s.draw.2.teams = s.teams := rfl
@[simp] theorem draw_copies : s.draw.2.copies = s.copies := rfl
@[simp] theorem draw_cards : s.draw.2.cards = s.cards := rfl
@[simp] theorem draw_ctxs : s.draw.2.ctxs = s.ctxs := rfl
@[simp] theorem draw_tenants : s.draw.2.tenants = s.tenants := rfl
@[simp] theorem draw_saves : s.draw.2.saves = s.saves := rfl
@[simp] theorem draw_sources : s.draw.2.sources = s.sources := rfl
@[simp] theorem draw_dieTlb : s.draw.2.dieTlb = s.dieTlb := rfl
@[simp] theorem draw_trace : s.draw.2.trace = s.trace := rfl
@[simp] theorem draw_windex : s.draw.2.windex = s.windex := rfl
@[simp] theorem draw_devno : s.draw.2.devno = s.devno := rfl
@[simp] theorem draw_sending : s.draw.2.sending = s.sending := rfl
@[simp] theorem draw_redo : s.draw.2.redo = s.redo := rfl
@[simp] theorem draw_clusters : s.draw.2.clusters = s.clusters := rfl
@[simp] theorem draw_fwRunning : s.draw.2.fwRunning = s.fwRunning := rfl
@[simp] theorem draw_corrected : s.draw.2.corrected = s.corrected := rfl
@[simp] theorem draw_spsize : s.draw.2.spsize = s.spsize := rfl
@[simp] theorem draw_replaced : s.draw.2.replaced = s.replaced := rfl
@[simp] theorem draw_deferred : s.draw.2.deferred = s.deferred := rfl
@[simp] theorem draw_fwVersion : s.draw.2.fwVersion = s.fwVersion := rfl
@[simp] theorem draw_fwImage : s.draw.2.fwImage = s.fwImage := rfl
@[simp] theorem draw_keyCounts : s.draw.2.keyCounts = s.keyCounts := rfl

end Sys2Proof.Machine
end

