-- ==== Sys2Proof/Laws/Table.lean ====
section
/-! SUPPORT. Tables, sorted sets and byte memories: reads after writes, the order of the keys, and the canonical form of a memory,
which every memory operation keeps. -/

namespace Sys2Proof.Machine

/-! Reads after writes. -/

@[simp] theorem tget?_nil {α : Type} (k : Nat) : tget? ([] : Tbl α) k = none := rfl

@[simp] theorem tget?_tset_self {α : Type} (t : Tbl α) (k : Nat) (v : α) : tget? (tset t k v) k = some v := by
  induction t with
  | nil => simp [tset, tget?]
  | cons e r ih =>
    obtain ⟨j, w⟩ := e
    simp only [tset]
    split
    · simp [tget?]
    · split
      · simp [tget?]
      · next h => simp [tget?, h, ih]

theorem tget?_tset_ne {α : Type} (t : Tbl α) {k n : Nat} (v : α) (h : n ≠ k) : tget? (tset t k v) n = tget? t n := by
  induction t with
  | nil => simp [tset, tget?, Ne.symm h]
  | cons e r ih =>
    obtain ⟨j, w⟩ := e
    simp only [tset]
    split
    · simp [tget?, Ne.symm h]
    · split
      · next hj => subst hj; simp [tget?, Ne.symm h]
      · simp [tget?, ih]

theorem tget?_tset {α : Type} (t : Tbl α) (k n : Nat) (v : α) :
    tget? (tset t k v) n = if n = k then some v else tget? t n := by
  split
  · next h => subst h; simp
  · next h => exact tget?_tset_ne t v h

@[simp] theorem tget_tset_self {α : Type} (t : Tbl α) (k : Nat) (v d : α) : tget (tset t k v) k d = v := by simp [tget]

theorem tget_tset_ne {α : Type} (t : Tbl α) {k n : Nat} (v d : α) (h : n ≠ k) : tget (tset t k v) n d = tget t n d := by
  simp [tget, tget?_tset_ne t v h]

theorem tget?_terase_self {α : Type} (t : Tbl α) (k : Nat) : tget? (terase t k) k = none := by
  induction t with
  | nil => rfl
  | cons e r ih =>
    obtain ⟨j, w⟩ := e
    simp only [terase]
    split
    · exact ih
    · next h => simp [tget?, h, ih]

theorem tget?_terase_ne {α : Type} (t : Tbl α) {k n : Nat} (h : n ≠ k) : tget? (terase t k) n = tget? t n := by
  induction t with
  | nil => rfl
  | cons e r ih =>
    obtain ⟨j, w⟩ := e
    simp only [terase]
    split
    · next hj => subst hj; simp [tget?, ih, Ne.symm h]
    · simp [tget?, ih]

@[simp] theorem tget?_tmod_self {α : Type} (t : Tbl α) (k : Nat) (f : α → α) : tget? (tmod t k f) k = (tget? t k).map f := by
  induction t with
  | nil => rfl
  | cons e r ih =>
    obtain ⟨j, w⟩ := e
    simp only [tmod]
    split
    · next h => simp [tget?, h]
    · next h => simp [tget?, h, ih]

theorem tget?_tmod_ne {α : Type} (t : Tbl α) {k n : Nat} (f : α → α) (h : n ≠ k) : tget? (tmod t k f) n = tget? t n := by
  induction t with
  | nil => rfl
  | cons e r ih =>
    obtain ⟨j, w⟩ := e
    simp only [tmod]
    split
    · next hj => subst hj; simp [tget?, Ne.symm h, ih]
    · simp [tget?, ih]

@[simp] theorem tkeys_tmod {α : Type} (t : Tbl α) (k : Nat) (f : α → α) : tkeys (tmod t k f) = tkeys t := by
  induction t with
  | nil => rfl
  | cons e r ih =>
    obtain ⟨j, w⟩ := e
    simp only [tmod]
    split <;> simp_all [tkeys]

/-! The order of the keys. -/

theorem tset_keys {α : Type} (t : Tbl α) (k : Nat) (v : α) (e : Nat × α) (h : e ∈ tset t k v) : e = (k, v) ∨ e ∈ t := by
  induction t with
  | nil => exact .inl (by simpa [tset] using h)
  | cons x r ih =>
    obtain ⟨j, w⟩ := x
    simp only [tset] at h
    split at h
    · rcases List.mem_cons.1 h with h | h
      · exact .inl h
      · exact .inr h
    · split at h
      · rcases List.mem_cons.1 h with h | h
        · exact .inl h
        · exact .inr (List.mem_cons_of_mem _ h)
      · rcases List.mem_cons.1 h with h | h
        · exact .inr (h ▸ List.mem_cons_self)
        · exact (ih h).imp id (List.mem_cons_of_mem _)

theorem terase_sub {α : Type} (t : Tbl α) (k : Nat) (e : Nat × α) (h : e ∈ terase t k) : e ∈ t := by
  induction t with
  | nil => exact h
  | cons x r ih =>
    obtain ⟨j, w⟩ := x
    simp only [terase] at h
    split at h
    · exact List.mem_cons_of_mem _ (ih h)
    · rcases List.mem_cons.1 h with h | h
      · exact h ▸ List.mem_cons_self
      · exact List.mem_cons_of_mem _ (ih h)

theorem tsorted_cons {α : Type} (e : Nat × α) (r : Tbl α) : tsorted (e :: r) = true ↔ (∀ x ∈ r, e.1 < x.1) ∧ tsorted r = true := by
  obtain ⟨k, v⟩ := e
  simp [tsorted]

theorem tsorted_tset {α : Type} (t : Tbl α) (k : Nat) (v : α) (h : tsorted t = true) : tsorted (tset t k v) = true := by
  induction t with
  | nil => rfl
  | cons e r ih =>
    obtain ⟨j, w⟩ := e
    obtain ⟨hj, hr⟩ := (tsorted_cons _ _).1 h
    simp only [tset]
    split
    · next hk =>
      refine (tsorted_cons _ _).2 ⟨fun x hx => ?_, h⟩
      rcases List.mem_cons.1 hx with hx | hx
      · simpa [hx] using hk
      · exact Nat.lt_trans hk (hj x hx)
    · split
      · next hk => subst hk; exact (tsorted_cons _ _).2 ⟨hj, hr⟩
      · refine (tsorted_cons _ _).2 ⟨fun x hx => ?_, ih hr⟩
        rcases tset_keys r k v x hx with hx | hx
        · subst hx; simp only; omega
        · exact hj x hx

theorem tsorted_terase {α : Type} (t : Tbl α) (k : Nat) (h : tsorted t = true) : tsorted (terase t k) = true := by
  induction t with
  | nil => rfl
  | cons e r ih =>
    obtain ⟨j, w⟩ := e
    obtain ⟨hj, hr⟩ := (tsorted_cons _ _).1 h
    simp only [terase]
    split
    · exact ih hr
    · exact (tsorted_cons _ _).2 ⟨fun x hx => hj x (terase_sub r k x hx), ih hr⟩

/-! Byte memories. -/

theorem mget_mset_self (m : Mem) (a : Nat) (b : Byte) : mget (mset m a b) a = b := by
  unfold mget mset
  split
  · next h => simp [tget, tget?_terase_self, h]
  · simp

theorem mget_mset_ne (m : Mem) {a n : Nat} (b : Byte) (h : n ≠ a) : mget (mset m a b) n = mget m n := by
  unfold mget mset
  split
  · simp [tget, tget?_terase_ne m h]
  · exact tget_tset_ne m b 0 h

theorem mget_msets_lt (l : List Byte) (m : Mem) {a n : Nat} (h : n < a) : mget (msets m a l) n = mget m n := by
  induction l generalizing m a with
  | nil => rfl
  | cons b r ih => rw [msets, ih _ (by omega), mget_mset_ne _ _ (by omega)]

theorem mget_msets_ge (l : List Byte) (m : Mem) {a n : Nat} (h : a + l.length ≤ n) : mget (msets m a l) n = mget m n := by
  induction l generalizing m a with
  | nil => rfl
  | cons b r ih =>
    rw [msets, ih _ (by simp at h; omega), mget_mset_ne _ _ (by simp at h; omega)]

theorem mget_msets (l : List Byte) (m : Mem) (a i : Nat) (h : i < l.length) : mget (msets m a l) (a + i) = l.getD i 0 := by
  induction l generalizing m a i with
  | nil => simp at h
  | cons b r ih =>
    cases i with
    | zero => rw [msets, mget_msets_lt _ _ (by omega)]; exact mget_mset_self m a b
    | succ i =>
      have := ih (mset m a b) (a + 1) i (by simpa using h)
      rw [msets, show a + (i + 1) = a + 1 + i by omega, this]
      simp

theorem mset_wf (m : Mem) (a : Nat) (b : Byte) (h : Memory.wf m = true) : Memory.wf (mset m a b) = true := by
  simp only [Memory.wf, Bool.and_eq_true, List.all_eq_true] at h ⊢
  unfold mset
  split
  · exact ⟨tsorted_terase _ _ h.1, fun e he => h.2 e (terase_sub _ _ e he)⟩
  · next hb =>
    refine ⟨tsorted_tset _ _ _ h.1, fun e he => ?_⟩
    rcases tset_keys _ _ _ e he with he | he
    · simpa [he] using hb
    · exact h.2 e he

theorem msets_wf (l : List Byte) (m : Mem) (a : Nat) (h : Memory.wf m = true) : Memory.wf (msets m a l) = true := by
  induction l generalizing m a with
  | nil => exact h
  | cons b r ih => exact ih _ _ (mset_wf m a b h)

/-! Folds over lists of threads and parts. -/

@[simp] theorem overAll_nil {α : Type} (f : State → α → State) (s : State) : overAll [] f s = s := rfl
@[simp] theorem overAll_cons {α : Type} (x : α) (l : List α) (f : State → α → State) (s : State) :
    overAll (x :: l) f s = overAll l f (f s x) := rfl
/-- What every part of a fold keeps, the fold keeps. -/
theorem overAll_keeps {α : Type} (P : State → Prop) (l : List α) (f : State → α → State) (s : State) (hs : P s)
    (h : ∀ t x, x ∈ l → P t → P (f t x)) : P (overAll l f s) := by
  induction l generalizing s with
  | nil => exact hs
  | cons x r ih =>
    exact ih (f s x) (h s x List.mem_cons_self hs) fun t y hy => h t y (List.mem_cons_of_mem _ hy)

/-- A store of bytes, through the one operation that writes memory, keeps the canonical form. -/
theorem putBytes_mem (s : State) (key : Nat) (l : List Byte) : (s.putBytes key l).mem = msets s.mem key l := by
  unfold State.putBytes
  generalize List.range _ = ws
  suffices h : ∀ (t : State), (ws.foldl (fun s i =>
      let w := key / 4 * 4 + 4 * i
      if (decide (key ≤ w) && decide (w + 4 ≤ key + l.length)) = true then s.mark w false else s) t).mem = t.mem from h _
  intro t
  induction ws generalizing t with
  | nil => rfl
  | cons i r ih =>
    rw [List.foldl_cons, ih]
    dsimp only
    split <;> rfl

theorem putBytes_wf (s : State) (key : Nat) (l : List Byte) (h : Memory.wf s.mem = true) :
    Memory.wf (s.putBytes key l).mem = true := by
  rw [putBytes_mem]
  exact msets_wf l _ _ h

/-- The memory after reset lists nothing. -/
theorem reset_mem_wf : Memory.wf State.reset.mem = true := rfl

end Sys2Proof.Machine
end

