-- ==== Sys2Proof/Laws/Parts.lean ====
section
/-! SUPPORT. Teams, groups, threads and registers: what a read finds after an update. -/

namespace Sys2Proof.Machine

theorem tmod_tmod {α : Type} (t : Tbl α) (k : Nat) (f h : α → α) : tmod (tmod t k f) k h = tmod t k (h ∘ f) := by
  induction t with
  | nil => rfl
  | cons e r ih =>
    obtain ⟨j, w⟩ := e
    by_cases hj : j = k <;> simp [tmod, hj, ih]

theorem tmod_id {α : Type} (t : Tbl α) (k : Nat) : tmod t k id = t := by
  induction t with
  | nil => rfl
  | cons e r ih =>
    obtain ⟨j, w⟩ := e
    by_cases hj : j = k <;> simp [tmod, hj, ih]

@[simp] theorem team_modTeam (s : State) (tk : Nat) (f : Team → Team) : (s.modTeam tk f).team tk = (s.team tk).map f := by
  simp [State.team, State.modTeam]
theorem team_modTeam_ne (s : State) {tk k : Nat} (f : Team → Team) (h : k ≠ tk) : (s.modTeam tk f).team k = s.team k := by
  simp [State.team, State.modTeam, tget?_tmod_ne _ _ h]
theorem modTeam_modTeam (s : State) (tk : Nat) (f h : Team → Team) : (s.modTeam tk f).modTeam tk h = s.modTeam tk (h ∘ f) := by
  simp [State.modTeam, tmod_tmod]

@[simp] theorem team_modGroup (s : State) (tk g : Nat) (f : Group → Group) :
    (s.modGroup tk g f).team tk = (s.team tk).map fun m => { m with groups := tmod m.groups g f } := by
  simp [State.modGroup]
theorem team_modGroup_ne (s : State) {tk k : Nat} (g : Nat) (f : Group → Group) (h : k ≠ tk) :
    (s.modGroup tk g f).team k = s.team k := team_modTeam_ne s _ h
@[simp] theorem group_modGroup (s : State) (tk g : Nat) (f : Group → Group) :
    (s.modGroup tk g f).group tk g = (s.group tk g).map f := by
  simp only [State.group, team_modGroup]
  cases s.team tk <;> simp
theorem group_modGroup_ne (s : State) {tk g k : Nat} (f : Group → Group) (h : k ≠ g) :
    (s.modGroup tk g f).group tk k = s.group tk k := by
  simp only [State.group, team_modGroup]
  cases s.team tk <;> simp [tget?_tmod_ne _ _ h]
theorem group_modGroup_team (s : State) {tk n : Nat} (g k : Nat) (f : Group → Group) (h : n ≠ tk) :
    (s.modGroup tk g f).group n k = s.group n k := by
  simp [State.group, team_modGroup_ne s g f h]
theorem modGroup_modGroup (s : State) (tk g : Nat) (f h : Group → Group) :
    (s.modGroup tk g f).modGroup tk g h = s.modGroup tk g (h ∘ f) := by
  simp only [State.modGroup, modTeam_modTeam]
  congr
  funext m
  simp [tmod_tmod]
theorem modGroup_id (s : State) (tk g : Nat) : s.modGroup tk g id = s := by
  have : (fun m : Team => { m with groups := tmod m.groups g id }) = id := by
    funext m
    simp [tmod_id]
  rw [State.modGroup, this, State.modTeam, tmod_id]

theorem modThread_eq (s : State) (tk g t : Nat) (f : Thread → Thread) :
    s.modThread tk g t f = s.modGroup tk g fun m => { m with th := tmod m.th t f } := rfl
@[simp] theorem thread_modThread (s : State) (tk g t : Nat) (f : Thread → Thread) :
    (s.modThread tk g t f).thread tk g t = (s.thread tk g t).map f := by
  simp only [State.thread, modThread_eq, group_modGroup]
  cases s.group tk g <;> simp
theorem thread_modThread_ne (s : State) {tk g t n : Nat} (f : Thread → Thread) (h : n ≠ t) :
    (s.modThread tk g t f).thread tk g n = s.thread tk g n := by
  simp only [State.thread, modThread_eq, group_modGroup]
  cases s.group tk g <;> simp [tget?_tmod_ne _ _ h]

/-! Updates of one group (the frame of the words that write registers, predicates and flags). -/

/-- The second state is the first with one group changed by a function that has a property. -/
def Within (tk g : Nat) (P : (Group → Group) → Prop) (s t : State) : Prop := ∃ F, P F ∧ t = s.modGroup tk g F

/-- What holds of the identity and of a composition holds of a fold. -/
theorem within_overAll {α : Type} {tk g : Nat} {P : (Group → Group) → Prop} (hid : P id)
    (hcomp : ∀ F H, P F → P H → P (H ∘ F)) (l : List α) (f : State → α → State)
    (h : ∀ s x, x ∈ l → Within tk g P s (f s x)) (s : State) : Within tk g P s (overAll l f s) := by
  induction l generalizing s with
  | nil => exact ⟨id, hid, (modGroup_id s tk g).symm⟩
  | cons x r ih =>
    obtain ⟨F, hF, hs⟩ := h s x List.mem_cons_self
    obtain ⟨H, hH, ht⟩ := ih (fun s y hy => h s y (List.mem_cons_of_mem _ hy)) (f s x)
    refine ⟨H ∘ F, hcomp F H hF hH, ?_⟩
    rw [overAll_cons, ht, hs, modGroup_modGroup]

theorem setV_eq (s : State) (tk g t n : Nat) (x : PWord) :
    s.setV tk g t n x = s.modGroup tk g fun m =>
      { m with th := tmod m.th t fun th => th.setReg m.ba n x
               fs := m.fs.map fun e => (e.1, e.2.touch ((m.thread t).wb + n) x.poison) } := rfl

theorem setR_within (s : State) (tk g t code : Nat) (x : PWord) (P : (Group → Group) → Prop)
    (hv : P fun m => { m with th := tmod m.th t fun th => th.setReg m.ba code x
                              fs := m.fs.map fun e => (e.1, e.2.touch ((m.thread t).wb + code) x.poison) })
    (hs : P fun m => { m with s := tset m.s (code - 64) x }) : Within tk g P s (s.setR tk g t code x) := by
  unfold State.setR
  split
  · exact ⟨_, hv, rfl⟩
  · exact ⟨_, hs, rfl⟩

/-! Registers (01 R34; 05 R90). -/

theorem getR_group (s : State) (tk g t code : Nat) (m : Group) (h : s.group tk g = some m) :
    s.getR tk g t code = if code < 64 then (m.thread t).reg m.ba code else m.sreg (code - 64) := by
  simp [State.getR, h]

/-- A register of a thread reads what was written to it, and writing it leaves the other registers of its window. -/
theorem reg_setReg (th : Thread) (ba n k : Nat) (x : PWord) (hn : n < ba) (hk : k < ba) :
    (th.setReg ba n x).reg ba k = if k = n then x else th.reg ba k := by
  have hb : 0 < ba := by omega
  by_cases h : k = n
  · subst h; simp [Thread.reg, Thread.setReg]
  · have : (th.wb + k) % ba ≠ (th.wb + n) % ba := by
      intro e
      apply h
      have h1 := Nat.sub_mod_eq_zero_of_mod_eq e
      have h2 := Nat.sub_mod_eq_zero_of_mod_eq e.symm
      rw [Nat.mod_eq_of_lt (by omega)] at h1 h2
      omega
    simp [Thread.reg, Thread.setReg, h, tget_tset_ne _ _ _ this]

end Sys2Proof.Machine
end

