-- ==== Sys2Proof/Laws/Alu.lean ====
section
/-! SUPPORT. What the mould of classes U and L does (09 R149, R150): the threads that take a word, its sources, and the one lemma that
says everything a word with a register result can do. -/

namespace Sys2Proof.Machine

open Safety

/-! The threads that take a word, and their sources. -/

@[simp] theorem killAll_nil (s : State) (tk g cause pc : Nat) (addr detail : Nat → Nat) :
    s.killAll tk g [] cause pc addr detail = s := by
  unfold State.killAll
  split <;> rfl

theorem issuing_group {s : State} {i : Issue} {m : Team} {g : Group} (h : Issuing s i m g) : s.group i.tk i.g = some g := by
  simp [State.group, h.team, h.group]
theorem issuing_thread {s : State} {i : Issue} {m : Team} {g : Group} (h : Issuing s i m g) (t : Nat) :
    s.thread i.tk i.g t = tget? g.th t := by
  simp [State.thread, issuing_group h]
theorem issuing_getD {s : State} {i : Issue} {m : Team} {g : Group} (h : Issuing s i m g) (t : Nat) :
    (s.thread i.tk i.g t).getD {} = g.thread t := by
  rw [issuing_thread h]
  rfl

theorem parts_eq {s : State} {i : Issue} {m : Team} {g : Group} (h : Issuing s i m g) (e : Option Ext) (hp : CleanPred i g e) :
    s.parts e = (s, takers i g e) := by
  unfold State.parts
  rw [h.cur]
  cases e with
  | none => rfl
  | some x =>
    have : (i.live.filter fun t => ((g.thread t).predN x.p.toNat x.pn).poison) = [] := by
      rw [List.filter_eq_nil_iff]
      intro t ht
      rw [hp t ht]
      simp
    simp only [issuing_getD h, this, killAll_nil, h.cur, takers]

theorem operands_eq (s : State) (i : Issue) (t : Nat) (codes : List (Nat × (Nat → Word))) (h : NoQueue codes) :
    s.operands i t codes = (codes.map fun c => s.src i c.2 t c.1, s) := by
  induction codes with
  | nil => rfl
  | cons c r ih =>
    obtain ⟨c, konst⟩ := c
    have hc := h (c, konst) List.mem_cons_self
    have : s.operand i konst t c = (s.src i konst t c, s) := by
      unfold State.operand
      split
      · next hq => simp only [Bool.and_eq_true, decide_eq_true_eq] at hq; exact absurd hq hc
      · rfl
    simp [State.operands, this, ih fun x hx => h x (List.mem_cons_of_mem _ hx)]

theorem takers_sub (i : Issue) (g : Group) (e : Option Ext) {t : Nat} (h : t ∈ takers i g e) : t ∈ i.live := by
  cases e with
  | none => exact h
  | some x => exact (List.mem_filter.1 h).1
theorem takers_rising {s : State} {i : Issue} {m : Team} {g : Group} (h : Issuing s i m g) (e : Option Ext) :
    (takers i g e).Pairwise (· < ·) := by
  cases e with
  | none => exact h.rising
  | some x => exact h.rising.filter _

/-- The threads whose sources are read: in class U the lowest. -/
def readers (k : UL) (ps : List Nat) : List Nat := match k with | .L => ps | .U => ps.take 1
theorem readers_cons (k : UL) (p : Nat) (r : List Nat) : ∃ r', readers k (p :: r) = p :: r' := by
  cases k with
  | L => exact ⟨r, rfl⟩
  | U => exact ⟨[], by simp [readers]⟩
theorem readers_nil (k : UL) : readers k [] = [] := by cases k <;> rfl

theorem results_eq {s : State} {i : Issue} {m : Team} {g : Group} (h : Issuing s i m g) (k : UL) (ps : List Nat)
    (codes : List (Nat × (Nat → Word))) (op : Thread → List Word → Res) (hq : NoQueue codes) :
    s.results i k ps codes op =
      ((readers k ps).map fun t => (t, resOf s i g codes op t), s) := by
  have one : ∀ t, (op ((s.thread i.tk i.g t).getD {}) ((s.operands i t codes).1.map (·.val))).guard
      ((s.operands i t codes).1.any (·.poison)) = resOf s i g codes op t := by
    intro t
    rw [operands_eq s i t codes hq, issuing_getD h]
    simp only [resOf, List.map_map, List.any_map, Function.comp_def]
  unfold State.results
  cases k with
  | L => simp only [one, readers]
  | U => cases ps with
    | nil => rfl
    | cons t r =>
      have := one t
      rw [operands_eq s i t codes hq] at this
      simp only [operands_eq s i t codes hq, this]
      rfl

/-! Updates within a group: threads keep all but their registers, flags and rounding state. -/

/-- A change of a group's registers, of its fragment sidecars, and of the flags and rounding states of its threads. -/
def Regs (F : Group → Group) : Prop :=
  ∀ g, { F g with th := g.th, s := g.s, fs := g.fs } = g ∧
    ∀ l, ∃ v a b, tget? (F g).th l = (tget? g.th l).map fun th => { th with v := v, fstat := a, srs := b }

theorem regs_id : Regs id := fun g => ⟨rfl, fun l => by
  cases h : tget? g.th l with
  | none => exact ⟨[], 0, 0, by simp [h]⟩
  | some th => exact ⟨th.v, th.fstat, th.srs, by simp [h]⟩⟩

theorem regs_comp (F H : Group → Group) (hF : Regs F) (hH : Regs H) : Regs (H ∘ F) := by
  intro g
  obtain ⟨f1, f2⟩ := hF g
  obtain ⟨h1, h2⟩ := hH (F g)
  refine ⟨?_, fun l => ?_⟩
  · have : { H (F g) with th := g.th, s := g.s, fs := g.fs } =
        { ({ H (F g) with th := (F g).th, s := (F g).s, fs := (F g).fs } : Group) with th := g.th, s := g.s, fs := g.fs } := rfl
    rw [Function.comp, this, h1, f1]
  · obtain ⟨v, a, b, e⟩ := f2 l
    obtain ⟨v', a', b', e'⟩ := h2 l
    refine ⟨v', a', b', ?_⟩
    rw [Function.comp, e', e, Option.map_map]
    rfl

/-- Changing one thread's registers, flags and rounding state is such a change. -/
theorem regs_thread (t : Nat) (f : Group → Thread → Thread) (fs : Group → Tbl Frag)
    (hf : ∀ g th, ∃ v a b, f g th = { th with v := v, fstat := a, srs := b }) :
    Regs fun m => { m with th := tmod m.th t (f m), fs := fs m } := by
  intro g
  refine ⟨rfl, fun l => ?_⟩
  by_cases h : l = t
  · subst h
    dsimp only
    rw [tget?_tmod_self]
    cases e : tget? g.th l with
    | none => exact ⟨[], 0, 0, rfl⟩
    | some th =>
      obtain ⟨v, a, b, e'⟩ := hf g th
      exact ⟨v, a, b, by simp [e']⟩
  · simp only [tget?_tmod_ne _ _ h]
    exact (regs_id g).2 l

/-- A change of a group's registers and of its fragment sidecars. -/
def RegsV (F : Group → Group) : Prop :=
  ∀ g, { F g with th := g.th, s := g.s, fs := g.fs } = g ∧
    ∀ l, ∃ v, tget? (F g).th l = (tget? g.th l).map fun th => { th with v := v }

theorem RegsV.regs {F : Group → Group} (h : RegsV F) : Regs F := fun g => ⟨(h g).1, fun l => by
  obtain ⟨v, e⟩ := (h g).2 l
  cases h' : tget? g.th l with
  | none => exact ⟨[], 0, 0, by rw [e, h']; rfl⟩
  | some th => exact ⟨v, th.fstat, th.srs, by rw [e, h']; rfl⟩⟩
theorem regsV_id : RegsV id := fun g => ⟨rfl, fun l => by
  cases h : tget? g.th l with
  | none => exact ⟨[], by simp [h]⟩
  | some th => exact ⟨th.v, by simp [h]⟩⟩
theorem regsV_comp (F H : Group → Group) (hF : RegsV F) (hH : RegsV H) : RegsV (H ∘ F) := by
  intro g
  refine ⟨(regs_comp F H hF.regs hH.regs g).1, fun l => ?_⟩
  obtain ⟨v, e⟩ := (hF g).2 l
  obtain ⟨v', e'⟩ := (hH (F g)).2 l
  refine ⟨v', ?_⟩
  rw [Function.comp, e', e, Option.map_map]
  rfl
theorem regsV_thread (t : Nat) (f : Group → Thread → Thread) (fs : Group → Tbl Frag)
    (hf : ∀ g th, ∃ v, f g th = { th with v := v }) : RegsV fun m => { m with th := tmod m.th t (f m), fs := fs m } := by
  intro g
  refine ⟨rfl, fun l => ?_⟩
  by_cases h : l = t
  · subst h
    dsimp only
    rw [tget?_tmod_self]
    cases e : tget? g.th l with
    | none => exact ⟨[], rfl⟩
    | some th =>
      obtain ⟨v, e'⟩ := hf g th
      exact ⟨v, by simp [e']⟩
  · simp only [tget?_tmod_ne _ _ h]
    exact (regsV_id g).2 l

theorem raise_within (s : State) (i : Issue) (t : Nat) (r : Res) : Within i.tk i.g Regs s (s.raise i t r) := by
  unfold State.raise
  split
  · exact ⟨id, regs_id, (modGroup_id s _ _).symm⟩
  · exact ⟨_, regs_thread t (fun _ th => { th.raise r.flags with srs := r.srs.getD th.srs }) (fun m => m.fs)
      fun _ th => ⟨th.v, _, _, rfl⟩, rfl⟩

theorem setR_regs (s : State) (tk g t code : Nat) (x : PWord) : Within tk g RegsV s (s.setR tk g t code x) :=
  setR_within s tk g t code x RegsV
    (regsV_thread t (fun m th => th.setReg m.ba code x)
      (fun m => m.fs.map fun e => (e.1, e.2.touch ((m.thread t).wb + code) x.poison)) fun _ _ => ⟨_, rfl⟩)
    fun g => ⟨rfl, (regsV_id g).2⟩

theorem within_trans {tk g : Nat} {P : (Group → Group) → Prop} (hcomp : ∀ F H, P F → P H → P (H ∘ F)) {s t u : State}
    (h : Within tk g P s t) (h' : Within tk g P t u) : Within tk g P s u := by
  obtain ⟨F, hF, rfl⟩ := h
  obtain ⟨H, hH, rfl⟩ := h'
  exact ⟨H ∘ F, hcomp F H hF hH, modGroup_modGroup ..⟩

theorem putRegs_regs (s : State) (tk g t code : Nat) (l : List PWord) : Within tk g RegsV s (s.putRegs tk g t code l) := by
  induction l generalizing s code with
  | nil => exact ⟨id, regsV_id, (modGroup_id s _ _).symm⟩
  | cons x r ih => exact within_trans regsV_comp (setR_regs s tk g t code x) (ih _ _)

theorem putDest_regs (s : State) (i : Issue) (w : Bool) (d : Nat) (rs : List (Nat × List PWord)) :
    Within i.tk i.g RegsV s (s.putDest i w d rs) := by
  unfold State.putDest
  split
  · exact ⟨id, regsV_id, (modGroup_id s _ _).symm⟩
  · split
    · exact within_overAll regsV_id regsV_comp _ _ (fun s r _ => putRegs_regs ..) s
    · split
      · exact ⟨id, regsV_id, (modGroup_id s _ _).symm⟩
      · exact putRegs_regs ..

/-! Registers read after they are written. -/

/-- The group after a change of one group, where it is there. -/
theorem Regs.ba {F : Group → Group} (h : Regs F) (g : Group) : (F g).ba = g.ba := by
  have := congrArg Group.ba (h g).1
  exact this

theorem getR_setR {s : State} {tk g t code : Nat} {gr : Group} (x : PWord) (hg : s.group tk g = some gr)
    (ht : (tget? gr.th t).isSome = true) (hd : Named gr code) (l c : Nat) (hc : Named gr c) :
    (s.setR tk g t code x).getR tk g l c = if c = code ∧ (code < 64 → l = t) then x else s.getR tk g l c := by
  obtain ⟨th, hth⟩ := Option.isSome_iff_exists.1 ht
  unfold State.setR
  split
  · next h64 =>
    have hb : code < gr.ba := by rcases hd with h | h <;> omega
    rw [getR_group _ tk g l c _ (by rw [setV_eq, group_modGroup, hg]; rfl), getR_group s tk g l c gr hg]
    split
    · next hc64 =>
      have hcb : c < gr.ba := by rcases hc with h | h <;> omega
      by_cases hl : l = t
      · subst hl
        simp only [Group.thread, tget, tget?_tmod_self, hth, Option.map_some, Option.getD_some, reg_setReg _ _ _ _ _ hb hcb]
        simp
      · simp only [Group.thread, tget, tget?_tmod_ne _ _ hl]
        rw [if_neg (by intro h; exact hl (h.2 h64))]
    · next hc64 =>
      rw [if_neg (by intro h; omega)]
      rfl
  · next h64 =>
    rw [getR_group _ tk g l c _ (by rw [State.setS, group_modGroup, hg]; rfl), getR_group s tk g l c gr hg]
    split
    · next hc64 =>
      rw [if_neg (by intro h; omega)]
      rfl
    · next hc64 =>
      simp only [Group.sreg, tget, tget?_tset]
      by_cases hcc : c = code
      · subst hcc; simp [h64]
      · rw [if_neg (by omega), if_neg (by intro h; exact hcc h.1)]

theorem Regs.named {F : Group → Group} (h : Regs F) {g : Group} {c : Nat} : Named (F g) c ↔ Named g c := by
  simp [Named, h.ba]
theorem Regs.isSome {F : Group → Group} (h : Regs F) {g : Group} {t : Nat} :
    (tget? (F g).th t).isSome = (tget? g.th t).isSome := by
  obtain ⟨v, a, b, e⟩ := (h g).2 t
  simp [e]

theorem getR_putRegs {s : State} {tk g t : Nat} {gr : Group} (rs : List PWord) (code : Nat) (hg : s.group tk g = some gr)
    (ht : (tget? gr.th t).isSome = true)
    (hd : (code + rs.length ≤ 64 ∧ code + rs.length ≤ gr.ba) ∨ (64 ≤ code ∧ code + rs.length ≤ 128)) (l c : Nat) (hc : Named gr c) :
    (s.putRegs tk g t code rs).getR tk g l c =
      if code ≤ c ∧ c < code + rs.length ∧ (code < 64 → l = t) then rs.getD (c - code) (clean 0) else s.getR tk g l c := by
  induction rs generalizing s gr code with
  | nil => rw [if_neg (by simp; omega)]; rfl
  | cons x r ih =>
    simp only [List.length_cons] at hd
    obtain ⟨F, hF, hs⟩ := setR_regs s tk g t code x
    have hg' : (s.setR tk g t code x).group tk g = some (F gr) := by rw [hs, group_modGroup, hg]; rfl
    have hn : Named gr code := by unfold Named; rcases hd with h | h <;> omega
    rw [State.putRegs, ih (code + 1) hg' (by rw [hF.regs.isSome]; exact ht) (by rw [hF.regs.ba]; omega) (hF.regs.named.2 hc),
      getR_setR x hg ht hn l c hc]
    by_cases h0 : c = code
    · subst h0
      rw [if_neg (by omega)]
      by_cases hl : c < 64 → l = t
      · rw [if_pos ⟨rfl, hl⟩, if_pos ⟨by omega, by simp, hl⟩]; simp
      · rw [if_neg (fun h => hl h.2), if_neg (fun h => hl h.2.2)]
    · rw [if_neg (c := c = code ∧ (code < 64 → l = t)) (fun h => h0 h.1)]
      by_cases h1 : code + 1 ≤ c ∧ c < code + 1 + r.length ∧ (code + 1 < 64 → l = t)
      · have : code < 64 → l = t := by
          intro h; rcases hd with hd | hd
          · exact h1.2.2 (by omega)
          · omega
        rw [if_pos h1, if_pos ⟨by omega, by simp only [List.length_cons]; omega, this⟩]
        rw [show c - code = c - (code + 1) + 1 by omega]; simp
      · rw [if_neg h1, if_neg]
        simp only [List.length_cons]
        intro h
        exact h1 ⟨by omega, by omega, fun h' => h.2.2 (by omega)⟩

/-- The registers of the threads of a list, written one thread after another (05 R90). -/
theorem getR_putAll {tk g d n : Nat} (rs : List (Nat × List PWord)) (hlen : ∀ r ∈ rs, r.2.length = n) (s : State) (gr : Group)
    (hg : s.group tk g = some gr) (ht : ∀ r ∈ rs, (tget? gr.th r.1).isSome = true) (hn : (rs.map (·.1)).Nodup) (h64 : d < 64)
    (hd : d + n ≤ 64 ∧ d + n ≤ gr.ba) (l c : Nat) (hc : Named gr c) :
    (overAll rs (fun s r => s.putRegs tk g r.1 d r.2) s).getR tk g l c =
      match rs.find? (·.1 == l) with
      | some r => if d ≤ c ∧ c < d + n then r.2.getD (c - d) (clean 0) else s.getR tk g l c
      | none => s.getR tk g l c := by
  induction rs generalizing s gr with
  | nil => rfl
  | cons r rs ih =>
    have hr := hlen r List.mem_cons_self
    obtain ⟨F, hF, hs⟩ := putRegs_regs s tk g r.1 d r.2
    have hg' : (s.putRegs tk g r.1 d r.2).group tk g = some (F gr) := by rw [hs, group_modGroup, hg]; rfl
    rw [List.map_cons, List.nodup_cons] at hn
    rw [overAll_cons, ih (fun x hx => hlen x (List.mem_cons_of_mem _ hx)) _ (F gr) hg'
      (fun x hx => by rw [hF.regs.isSome]; exact ht x (List.mem_cons_of_mem _ hx)) hn.2 (by rw [hF.regs.ba]; exact hd) (hF.regs.named.2 hc)]
    have hput := getR_putRegs r.2 d hg (ht r List.mem_cons_self) (by omega) l c hc
    rw [hr] at hput
    by_cases hl : r.1 = l
    · have : rs.find? (·.1 == l) = none := by
        rw [List.find?_eq_none]
        intro x hx hxl
        exact hn.1 (List.mem_map.2 ⟨x, hx, by rw [hl]; simpa using hxl⟩)
      rw [List.find?_cons_of_pos (by simpa using hl), this, hput]
      simp only [hl, h64, forall_const, and_true]
    · rw [List.find?_cons_of_neg (by simpa using hl)]
      have e : (s.putRegs tk g r.1 d r.2).getR tk g l c = s.getR tk g l c := by
        rw [hput, if_neg]
        intro h
        exact hl (h.2.2 h64).symm
      rw [e]

/-! Flags and rounding states raised. -/

theorem raise_getR (s : State) (i : Issue) (t : Nat) (r : Res) (l c : Nat) :
    (s.raise i t r).getR i.tk i.g l c = s.getR i.tk i.g l c := by
  unfold State.raise
  split
  · rfl
  · simp only [State.getR, modThread_eq, group_modGroup]
    cases s.group i.tk i.g with
    | none => rfl
    | some m =>
      simp only [Option.map_some, Group.thread, tget]
      by_cases h : l = t
      · subst h; rw [tget?_tmod_self]; cases tget? m.th l <;> rfl
      · rw [tget?_tmod_ne _ _ h]; rfl
theorem raise_thread (s : State) (i : Issue) (t : Nat) (r : Res) (l : Nat) :
    (s.raise i t r).thread i.tk i.g l = if l = t then
      (s.thread i.tk i.g l).map fun th => { th with fstat := th.fstat ||| wn r.flags, srs := r.srs.getD th.srs }
      else s.thread i.tk i.g l := by
  unfold State.raise
  split
  · next h =>
    simp only [Bool.and_eq_true, beq_iff_eq, Option.isNone_iff_eq_none] at h
    split
    · cases s.thread i.tk i.g l <;> simp [h.1, h.2, wn]
    · rfl
  · split
    · next h => subst h; rw [thread_modThread]; rfl
    · next h => exact thread_modThread_ne s _ h

/-- Raising the flags of the threads of a list, each once. -/
theorem raiseAll_thread {α : Type} (i : Issue) (rs : List α) (key : α → Nat) (res : α → Res) (hn : (rs.map key).Nodup) (s : State)
    (l : Nat) :
    (overAll rs (fun s r => s.raise i (key r) (res r)) s).thread i.tk i.g l =
      match rs.find? (fun r => key r == l) with
      | some r => (s.thread i.tk i.g l).map fun th => { th with fstat := th.fstat ||| wn (res r).flags, srs := (res r).srs.getD th.srs }
      | none => s.thread i.tk i.g l := by
  induction rs generalizing s with
  | nil => rfl
  | cons r rs ih =>
    rw [List.map_cons, List.nodup_cons] at hn
    rw [overAll_cons, ih hn.2, raise_thread]
    by_cases hl : key r = l
    · have : rs.find? (fun r => key r == l) = none := by
        rw [List.find?_eq_none]
        intro x hx hxl
        exact hn.1 (List.mem_map.2 ⟨x, hx, by rw [hl]; simpa using hxl⟩)
      rw [List.find?_cons_of_pos (by simpa using hl), this, if_pos hl.symm]
    · rw [List.find?_cons_of_neg (by simpa using hl), if_neg (Ne.symm hl)]
theorem raiseAll_getR {α : Type} (i : Issue) (rs : List α) (key : α → Nat) (res : α → Res) (s : State) (l c : Nat) :
    (overAll rs (fun s r => s.raise i (key r) (res r)) s).getR i.tk i.g l c = s.getR i.tk i.g l c :=
  overAll_keeps (fun u => u.getR i.tk i.g l c = s.getR i.tk i.g l c) rs _ s rfl fun t x _ h => by rw [raise_getR, h]
theorem raiseAll_within {α : Type} (i : Issue) (rs : List α) (key : α → Nat) (res : α → Res) (s : State) :
    Within i.tk i.g Regs s (overAll rs (fun s r => s.raise i (key r) (res r)) s) :=
  within_overAll regs_id regs_comp rs _ (fun s _ _ => raise_within s i _ _) s

/-! The last part of a word: registers and latches. -/

/-- What a change of one group of the issuing clause's team leaves as it was. -/
theorem within_only {s : State} {i : Issue} {m : Team} {g : Group} (h : Issuing s i m g) {t : State}
    (hw : Within i.tk i.g Regs s t) (f : Issue → Issue) (hf : { f i with lat := i.lat, slat := i.slat } = i) :
    OnlyGroup s (t.modCur f) i m := by
  obtain ⟨F, hF, rfl⟩ := hw
  obtain ⟨r, hr⟩ : ∃ r, s.issues = i :: r := by
    have := h.cur
    unfold State.cur at this
    cases hs : s.issues with
    | nil => simp [hs] at this
    | cons x r => simp [hs] at this; exact ⟨r, by rw [this]⟩
  have e : (s.modGroup i.tk i.g F).modCur f = { s.modGroup i.tk i.g F with issues := f i :: r } := by
    unfold State.modCur
    rw [modGroup_issues, hr]
  rw [e]
  have hteam : ({ s.modGroup i.tk i.g F with issues := f i :: r } : State).team i.tk = (s.modGroup i.tk i.g F).team i.tk := rfl
  refine ⟨⟨rfl, fun a => rfl, fun k hk => team_modGroup_ne s i.g F hk,
    ⟨{ m with groups := tmod m.groups i.g F }, ?_, ?_, ?_⟩⟩, ⟨f i, ?_, hf⟩⟩
  · rw [hteam, team_modGroup, h.team]; rfl
  · rfl
  · intro k hk; exact tget?_tmod_ne _ _ hk
  · rw [hr]; rfl

theorem fillLatch_eq (s : State) (i : Issue) (d : Nat) (rs : List (Nat × List PWord)) :
    ∃ f : Issue → Issue, s.fillLatch i d rs = s.modCur f ∧ ∀ j, { f j with lat := j.lat, slat := j.slat } = j := by
  refine ⟨_, rfl, fun j => ?_⟩
  unfold Issue.shift
  split <;> rfl

theorem modCur_getR (s : State) (f : Issue → Issue) (tk g l c : Nat) : (s.modCur f).getR tk g l c = s.getR tk g l c := by
  unfold State.modCur
  split <;> rfl
theorem modCur_group (s : State) (f : Issue → Issue) (tk g : Nat) : (s.modCur f).group tk g = s.group tk g := by
  unfold State.modCur
  split <;> rfl

theorem regs_length (r : Res) (b : Bool) : (r.guard b).regs.length = r.regs.length := by
  unfold Res.guard
  split
  · unfold Res.regs; cases r.hi <;> rfl
  · rfl

theorem regs_get (r : Res) (j : Nat) (h : j < r.regs.length) : r.regs[j]? = some (r.regs.getD j (clean 0)) := by
  rw [List.getD_eq_getElem?_getD, List.getElem?_eq_getElem h]
  rfl

theorem find?_pair {β : Type} (ps : List Nat) (f : Nat → β) (l : Nat) :
    (ps.map fun t => (t, f t)).find? (·.1 == l) = if l ∈ ps then some (l, f l) else none := by
  induction ps with
  | nil => rfl
  | cons p r ih =>
    by_cases h : p = l
    · subst h; simp
    · simp only [List.map_cons]
      rw [List.find?_cons_of_neg (by simpa using h), ih]
      simp [List.mem_cons, Ne.symm h]

theorem headD_mem (ps : List Nat) (h : ps ≠ []) : ps.headD 0 ∈ ps := by
  cases ps with
  | nil => exact absurd rfl h
  | cons p r => exact List.mem_cons_self

/-- What a destination receives from the results of threads (05 R90). -/
theorem putDest_getR {s : State} {i : Issue} {gr : Group} (hg : s.group i.tk i.g = some gr) (k : UL) (f : FR) (n : Nat) (ps : List Nat)
    (hps : ps.Nodup) (ht : ∀ t ∈ ps, (tget? gr.th t).isSome = true) (hfit : Fits k f gr n) (v : Nat → Res)
    (hv : ∀ t, (v t).regs.length = n) (l c : Nat) (hc : Named gr c) :
    (s.putDest i f.w f.d.toNat ((readers k ps).map fun t => (t, (v t).regs))).getR i.tk i.g l c =
      if f.w = false ∧ f.d.toNat ≤ c ∧ c < f.d.toNat + n ∧ ps ≠ [] ∧ (f.d.toNat < 64 → l ∈ ps) then
        (v (if f.d.toNat < 64 then l else ps.headD 0)).regs.getD (c - f.d.toNat) (clean 0)
      else s.getR i.tk i.g l c := by
  unfold State.putDest
  cases hw : f.w with
  | true => simp
  | false =>
    simp only [Bool.false_eq_true, if_false, true_and]
    by_cases h64 : f.d.toNat < 64
    · have hL : k = .L ∧ f.d.toNat + n ≤ 64 ∧ f.d.toNat + n ≤ gr.ba := by
        rcases hfit with h | h
        · exact ⟨h.2.1, h.2.2⟩
        · omega
      rw [if_pos h64, hL.1, readers]
      rw [getR_putAll (n := n) _ (by intro r hr; obtain ⟨t, _, rfl⟩ := List.mem_map.1 hr; exact hv t) s gr hg
        (by intro r hr; obtain ⟨t, h, rfl⟩ := List.mem_map.1 hr; exact ht t h)
        (by simpa [List.map_map, Function.comp_def] using hps) h64 hL.2 l c hc]
      rw [find?_pair ps (fun t => (v t).regs) l]
      by_cases hl : l ∈ ps
      · have hne : ps ≠ [] := List.ne_nil_of_mem hl
        simp [hl, h64, hne]
      · simp [hl, h64]
    · have hd : 64 ≤ f.d.toNat ∧ f.d.toNat + n ≤ 128 := by
        rcases hfit with h | h
        · omega
        · exact h
      rw [if_neg h64]
      cases hps' : ps with
      | nil => simp [readers_nil]
      | cons p r =>
        obtain ⟨r', hr⟩ := readers_cons k p r
        rw [hr, List.map_cons]
        simp only
        rw [getR_putRegs (v p).regs f.d.toNat hg (ht p (by rw [hps']; exact List.mem_cons_self)) (by rw [hv p]; omega) l c hc, hv p]
        simp [h64]

/-- Everything that a U or L word with a register result does. -/
theorem alu_spec (x : Instr) (k : UL) (f : FR) (codes : List (Nat × (Nat → Word))) (n : Nat) (op : Thread → List Word → Res)
    (hx : ∀ s, exec x s = .next (s.alu k f codes op)) (hn : ∀ th l, (op th l).regs.length = n) : AluEffect x k f codes n op := by
  intro s i m g hi hp hq hfit
  refine ⟨s.alu k f codes op, hx s, ?_⟩
  have hlen : ∀ t, (resOf s i g codes op t).regs.length = n := fun t => by rw [resOf, regs_length, hn]
  have hnd : (takers i g f.ext).Nodup := (takers_rising hi f.ext).imp fun h => Nat.ne_of_lt h
  have hth : ∀ t ∈ takers i g f.ext, (tget? g.th t).isSome = true := fun t h => hi.there t (takers_sub i g f.ext h)
  generalize hps : takers i g f.ext = ps at *
  obtain ⟨key, res, rs, hraise, hkey, hfind⟩ : ∃ (key : Nat × Res → Nat) (res : Nat × Res → Res) (rs : List (Nat × Res)),
      (s.alu k f codes op = (overAll rs (fun s r => s.raise i (key r) (res r)) s).finish i f.w f.d.toNat
        ((readers k ps).map fun t => (t, (resOf s i g codes op t).regs))) ∧ (rs.map key).Nodup ∧
      ∀ l, (rs.find? fun r => key r == l).map res = if l ∈ ps then some { resOf s i g codes op (sourceOf k ps l) with
        srs := if sourceOf k ps l = l then (resOf s i g codes op (sourceOf k ps l)).srs else none } else none := by
    have hres := results_eq hi k ps codes op hq
    cases k with
    | L =>
      refine ⟨(·.1), (·.2), ps.map fun t => (t, resOf s i g codes op t), ?_, ?_, ?_⟩
      · unfold State.alu
        rw [parts_eq hi f.ext hp]
        simp only [hi.cur, hps, hres, readers, List.map_map, Function.comp_def]
      · simpa [List.map_map, Function.comp_def] using hnd
      · intro l
        rw [find?_pair ps (fun t => resOf s i g codes op t) l]
        by_cases h : l ∈ ps <;> simp [h, sourceOf]
    | U =>
      cases hps' : ps with
      | nil =>
        refine ⟨(·.1), (·.2), [], ?_, List.nodup_nil, by simp⟩
        rw [hps'] at hres
        unfold State.alu
        rw [parts_eq hi f.ext hp]
        simp only [hi.cur, hps, hps', hres, readers, List.take_nil, List.map_nil]
      | cons p r =>
        refine ⟨(·.1), (·.2), ps.map fun t => (t, { resOf s i g codes op p with
          srs := if t == p then (resOf s i g codes op p).srs else none }), ?_, ?_, ?_⟩
        · rw [hps'] at hres
          unfold State.alu
          rw [parts_eq hi f.ext hp]
          simp only [hi.cur, hps, hps', hres, readers, List.take_succ_cons, List.take_zero, List.map_cons, List.map_nil]
          simp only [overAll, List.foldl_map, List.foldl_cons]
        · simpa [List.map_map, Function.comp_def] using hnd
        · intro l
          rw [find?_pair ps _ l, ← hps']
          by_cases h : l ∈ ps
          · have hp0 : ps.headD 0 = p := by rw [hps']; rfl
            simp only [h, if_true, Option.map_some, sourceOf, hp0]
            by_cases hl : l = p
            · simp [hl]
            · simp [hl, Ne.symm hl]
          · simp [h]
  have hw1 := raiseAll_within i rs key res s
  have hgetR1 : ∀ l c, (overAll rs (fun s r => s.raise i (key r) (res r)) s).getR i.tk i.g l c = s.getR i.tk i.g l c :=
    fun l c => raiseAll_getR ..
  have hthread1 := fun l => raiseAll_thread i rs key res hkey s l
  generalize overAll rs (fun s r => s.raise i (key r) (res r)) s = u at *
  obtain ⟨F1, hF1, e1⟩ := hw1
  have hg1 : u.group i.tk i.g = some (F1 g) := by rw [e1, group_modGroup, issuing_group hi]; rfl
  have hw2 := putDest_regs u i f.w f.d.toNat ((readers k ps).map fun t => (t, (resOf s i g codes op t).regs))
  have hput := fun l c hc => putDest_getR (gr := F1 g) hg1 k f n ps hnd (fun t h => by rw [hF1.isSome]; exact hth t h)
    (by simpa [Fits, hF1.ba] using hfit) (resOf s i g codes op) hlen l c hc
  obtain ⟨fl, hfl, hfl'⟩ := fillLatch_eq (u.putDest i f.w f.d.toNat ((readers k ps).map fun t => (t, (resOf s i g codes op t).regs)))
    i f.d.toNat ((readers k ps).map fun t => (t, (resOf s i g codes op t).regs))
  rw [State.finish, hfl] at hraise
  generalize u.putDest i f.w f.d.toNat ((readers k ps).map fun t => (t, (resOf s i g codes op t).regs)) = w at *
  obtain ⟨F2, hF2, e2⟩ := hw2
  have hw : Within i.tk i.g Regs s w := by
    rw [e2, e1, modGroup_modGroup]
    exact ⟨_, regs_comp _ _ hF1 hF2.regs, rfl⟩
  rw [hraise]
  refine ⟨within_only hi hw fl (hfl' i), ?_, ?_, ?_⟩
  · intro l c hwr
    unfold Writes at hwr
    have hc : Named (F1 g) c := by
      rw [hF1.named]
      unfold Named
      rcases hfit with h | h <;> obtain ⟨_, h1, h2, _, _⟩ := hwr <;> omega
    rw [modCur_getR, hput l c hc, if_pos hwr]
    exact regs_get _ _ (by rw [hlen]; obtain ⟨_, h1, h2, _, _⟩ := hwr; omega)
  · intro l c hc hwr
    unfold Writes at hwr
    rw [modCur_getR, hput l c (hF1.named.2 hc), if_neg hwr, hgetR1]
  · refine ⟨F2 (F1 g), ?_, ?_, ?_⟩
    · rw [modCur_group, e2, group_modGroup, hg1]; rfl
    · exact (regs_comp _ _ hF1 hF2.regs g).1
    · intro l
      have h1 := hthread1 l
      rw [issuing_thread hi l, State.thread, hg1, Option.bind_some] at h1
      obtain ⟨v, h2⟩ := (hF2 (F1 g)).2 l
      have hf := hfind l
      refine ⟨v, ?_⟩
      rw [h2, h1]
      by_cases hl : l ∈ ps
      · rw [if_pos hl] at hf
        obtain ⟨r, hr, he⟩ := Option.map_eq_some_iff.1 hf
        simp only [hr, hl, true_and, if_true, he, Option.map_map, Function.comp_def]
        congr 1
        funext th
        split <;> simp_all
      · rw [if_neg hl] at hf
        simp only [Option.map_eq_none_iff] at hf
        simp [hf, hl]

/-- Everything that a word does whose last part writes registers out of what several threads hold. -/
theorem reg_spec (x : Instr) (f : FR) (n : Nat) (v : State → Issue → Group → List Nat → Nat → List PWord)
    (hx : ∀ s i m g, Issuing s i m g → CleanPred i g f.ext → exec x s = .next (s.finish i f.w f.d.toNat
      ((takers i g f.ext).map fun t => (t, v s i g (takers i g f.ext) t))))
    (hn : ∀ s i g ps t, (v s i g ps t).length = n) : RegEffect x f n v := by
  intro s i m g hi hp hfit
  refine ⟨_, hx s i m g hi hp, ?_⟩
  have hnd : (takers i g f.ext).Nodup := (takers_rising hi f.ext).imp fun h => Nat.ne_of_lt h
  have hth : ∀ t ∈ takers i g f.ext, (tget? g.th t).isSome = true := fun t h => hi.there t (takers_sub i g f.ext h)
  generalize takers i g f.ext = ps at *
  obtain ⟨fl, hfl, hfl'⟩ := fillLatch_eq (s.putDest i f.w f.d.toNat (ps.map fun t => (t, v s i g ps t))) i f.d.toNat
    (ps.map fun t => (t, v s i g ps t))
  have hput : ∀ l c, Named g c → (s.putDest i f.w f.d.toNat (ps.map fun t => (t, v s i g ps t))).getR i.tk i.g l c =
      if f.w = false ∧ f.d.toNat ≤ c ∧ c < f.d.toNat + n ∧ ps ≠ [] ∧ (f.d.toNat < 64 → l ∈ ps) then (v s i g ps (if f.d.toNat < 64 then l else ps.headD 0)).getD (c - f.d.toNat) (clean 0)
      else s.getR i.tk i.g l c := by
    intro l c hc
    unfold State.putDest
    cases hw : f.w with
    | true => simp
    | false =>
      simp only [Bool.false_eq_true, if_false, true_and]
      by_cases h64 : f.d.toNat < 64
      · have hd : f.d.toNat + n ≤ 64 ∧ f.d.toNat + n ≤ g.ba := by
          rcases hfit with h | h
          · exact h.2.2
          · omega
        rw [if_pos h64, getR_putAll (n := n) _ (by intro r hr; obtain ⟨t, _, rfl⟩ := List.mem_map.1 hr; exact hn ..) s g
          (issuing_group hi) (by intro r hr; obtain ⟨t, h, rfl⟩ := List.mem_map.1 hr; exact hth t h)
          (by simpa [List.map_map, Function.comp_def] using hnd) h64 hd l c hc]
        rw [find?_pair ps (fun t => v s i g ps t) l]
        by_cases hl : l ∈ ps
        · have hne : ps ≠ [] := List.ne_nil_of_mem hl
          simp [hl, h64, hne]
        · simp [hl, h64]
      · have hd : 64 ≤ f.d.toNat ∧ f.d.toNat + n ≤ 128 := by
          rcases hfit with h | h
          · omega
          · exact h
        rw [if_neg h64]
        cases hps' : ps with
        | nil => simp
        | cons p r =>
          rw [← hps']
          have : (ps.map fun t => (t, v s i g ps t)) = (p, v s i g ps p) :: r.map fun t => (t, v s i g ps t) := by
            conv => lhs; arg 2; rw [hps']
            rfl
          rw [this]
          simp only
          rw [getR_putRegs _ f.d.toNat (issuing_group hi) (hth p (by rw [hps']; exact List.mem_cons_self)) (by rw [hn]; omega) l c hc, hn]
          simp [h64, hps']
  have hw := putDest_regs s i f.w f.d.toNat (ps.map fun t => (t, v s i g ps t))
  rw [State.finish, hfl]
  generalize s.putDest i f.w f.d.toNat (ps.map fun t => (t, v s i g ps t)) = w at *
  obtain ⟨F, hF, e⟩ := hw
  refine ⟨within_only hi ⟨F, hF.regs, e⟩ fl (hfl' i), ?_, ?_, ?_⟩
  · intro l c hwr
    unfold Writes at hwr
    have hc : Named g c := by
      unfold Named
      rcases hfit with h | h <;> obtain ⟨_, h1, h2, _, _⟩ := hwr <;> omega
    rw [modCur_getR, hput l c hc, if_pos hwr]
    rw [List.getD_eq_getElem?_getD, List.getElem?_eq_getElem (by rw [hn]; obtain ⟨_, h1, h2, _, _⟩ := hwr; omega)]
    rfl
  · intro l c hc hwr
    unfold Writes at hwr
    rw [modCur_getR, hput l c hc, if_neg hwr]
  · refine ⟨F g, ?_, (hF g).1, (hF g).2⟩
    rw [modCur_group, e, group_modGroup, issuing_group hi]
    rfl

/-! Words that change threads. -/

/-- A change of a group's threads only. -/
def Threads (F : Group → Group) : Prop := ∀ g, { F g with th := g.th } = g

theorem threads_id : Threads id := fun _ => rfl
theorem threads_comp (F H : Group → Group) (hF : Threads F) (hH : Threads H) : Threads (H ∘ F) := by
  intro g
  have : { H (F g) with th := g.th } = { ({ H (F g) with th := (F g).th } : Group) with th := g.th } := rfl
  rw [Function.comp, this, hH, hF]
theorem modThread_within (s : State) (tk g t : Nat) (f : Thread → Thread) : Within tk g Threads s (s.modThread tk g t f) :=
  ⟨fun m => { m with th := tmod m.th t f }, fun _ => rfl, rfl⟩

theorem threads_only {s : State} {i : Issue} {m : Team} {g : Group} (h : Issuing s i m g) {t : State}
    (hw : Within i.tk i.g Threads s t) (f : Issue → Issue) (hf : { f i with lat := i.lat, slat := i.slat } = i) :
    OnlyGroup s (t.modCur f) i m := by
  obtain ⟨F, _, rfl⟩ := hw
  obtain ⟨r, hr⟩ : ∃ r, s.issues = i :: r := by
    have := h.cur
    unfold State.cur at this
    cases hs : s.issues with
    | nil => simp [hs] at this
    | cons x r => simp [hs] at this; exact ⟨r, by rw [this]⟩
  have e : (s.modGroup i.tk i.g F).modCur f = { s.modGroup i.tk i.g F with issues := f i :: r } := by
    unfold State.modCur
    rw [modGroup_issues, hr]
  rw [e]
  have hteam : ({ s.modGroup i.tk i.g F with issues := f i :: r } : State).team i.tk = (s.modGroup i.tk i.g F).team i.tk := rfl
  refine ⟨⟨rfl, fun a => rfl, fun k hk => team_modGroup_ne s i.g F hk,
    ⟨{ m with groups := tmod m.groups i.g F }, ?_, ?_, ?_⟩⟩, ⟨f i, ?_, hf⟩⟩
  · rw [hteam, team_modGroup, h.team]; rfl
  · rfl
  · intro k hk; exact tget?_tmod_ne _ _ hk
  · rw [hr]; rfl

/-- Threads changed one after another, each once. -/
theorem threads_overAll (tk g : Nat) (ps : List Nat) (hn : ps.Nodup) (f : Nat → Thread → Thread) (s : State) (l : Nat) :
    (overAll ps (fun s t => s.modThread tk g t (f t)) s).thread tk g l =
      (s.thread tk g l).map fun th => if l ∈ ps then f l th else th := by
  induction ps generalizing s with
  | nil => simp
  | cons p r ih =>
    rw [List.nodup_cons] at hn
    rw [overAll_cons, ih hn.2]
    by_cases h : l = p
    · subst h
      rw [thread_modThread, Option.map_map]
      simp [hn.1, Function.comp_def]
    · rw [thread_modThread_ne _ _ h]
      simp [h]

theorem shiftEmpty_eq (s : State) : ∃ f : Issue → Issue, s.shiftEmpty = s.modCur f ∧ ∀ j, { f j with lat := j.lat, slat := j.slat } = j := by
  refine ⟨_, rfl, fun j => ?_⟩
  unfold Issue.shift
  split <;> rfl

/-- Everything that a word does which changes each thread that takes it by a function. -/
theorem thread_spec (x : Instr) (e : Option Ext) (codes : List (Nat × (Nat → Word)))
    (new : State → Issue → Group → List Nat → Nat → Thread → Thread)
    (hx : ∀ s i m g, Issuing s i m g → CleanPred i g e → NoQueue codes → exec x s =
      .next (overAll (takers i g e) (fun u t => u.modThread i.tk i.g t (new s i g (takers i g e) t)) s).shiftEmpty) :
    ThreadEffect x e codes new := by
  intro s i m g hi hp hq
  refine ⟨_, hx s i m g hi hp hq, ?_⟩
  have hnd : (takers i g e).Nodup := (takers_rising hi e).imp fun h => Nat.ne_of_lt h
  generalize takers i g e = ps at *
  have hth := threads_overAll i.tk i.g ps hnd (new s i g ps) s
  have hw : Within i.tk i.g Threads s (overAll ps (fun u t => u.modThread i.tk i.g t (new s i g ps t)) s) :=
    within_overAll threads_id threads_comp ps _ (fun s t _ => modThread_within ..) s
  generalize overAll ps (fun u t => u.modThread i.tk i.g t (new s i g ps t)) s = w at *
  obtain ⟨fl, hfl, hfl'⟩ := shiftEmpty_eq w
  rw [hfl]
  refine ⟨threads_only hi hw fl (hfl' i), ?_⟩
  obtain ⟨F, hF, ew⟩ := hw
  have hg : w.group i.tk i.g = some (F g) := by rw [ew, group_modGroup, issuing_group hi]; rfl
  refine ⟨F g, by rw [modCur_group, hg], hF g, fun l => ?_⟩
  have := hth l
  rw [State.thread, hg, Option.bind_some, issuing_thread hi] at this
  exact this

end Sys2Proof.Machine
end

