-- ==== Sys2Proof/Tests/Slice0.lean ====
section
/-! SUPPORT. Tests: words of every constructor written out from the spec's tables, ill-formed terms that each check refuses, values
that the spec works out, and states that meet the hypotheses of each statement. -/

open Sys2Proof Sys2Proof.Machine Sys2Proof.Safety Sys2Proof.Claim

namespace Sys2Proof.Tests

/-! Words and instructions. -/

def rr (d a b : Nat) : FR := { w := false, d := d, a := a, b := b, ext := none }
def mm (d a width order scope : Nat) : FM := { w := false, d := d, a := a, width := width, order := order, scope := scope, ext := none }
def bb (i frame off : Nat) : FB := { n := false, i := i, frame := frame, off := off, ext := none }
def ee (tb comp a b : Nat) : FE := { tb := tb, comp := comp, a := a, b := b, ext := none }
/-- An extension word: third source and modifier bits, unpredicated, slot 0. -/
def ex (c imm : Nat) : Ext := { c := c, pn := false, p := 7, ws := 0, imm := imm }
/-- An instruction with an extension word. -/
def rx (f : FR) (e : Ext) : FR := { f with ext := some e }
def mx (f : FM) (e : Ext) : FM := { f with ext := some e }
def bx (f : FB) (e : Ext) : FB := { f with ext := some e }
def fx (f : FE) (e : Ext) : FE := { f with ext := some e }
/-- Each word decodes in a class to its instruction, and the instruction encodes to the word. -/
def reads (c : Cls) (l : List (Word × Instr)) : Bool :=
  l.all fun x => decodeNext c [x.1] == some (x.2, []) && encode x.2 == [x.1]
/-- The reasons of an instruction's illegal fields (05 R106). -/
def reasons (i : Instr) : List Nat := (bads i).map (·.reason)

/-! Decoding, by the opcode tables: destination 5, sources 0x42 and 0x43 where the row has them. -/

theorem test_decode_arithmetic_1 : reads .L [
   (0x00054243, .iadd .L (rr 5 66 67)), (0x02054243, .isub .L (rr 5 66 67)), (0x04054243, .imul .L (rr 5 66 67)),
   (0x06054243, .imulhi .L (rr 5 66 67)), (0x08054243, .imad .L (rr 5 66 67)), (0x0A054243, .idivs .L (rr 5 66 67)),
   (0x0C054243, .imin .L (rr 5 66 67)), (0x0E054243, .imax .L (rr 5 66 67)), (0x10054200, .iabs .L (rr 5 66 0)),
   (0x12054200, .ineg .L (rr 5 66 0)), (0x14054243, .shl .L (rr 5 66 67)), (0x16054243, .shr .L (rr 5 66 67)),
   (0x18054243, .sar .L (rr 5 66 67)), (0x1A054243, .rotl .L (rr 5 66 67)), (0x1C054243, .rotr .L (rr 5 66 67)),
   (0x1E054243, .dsh .L (rr 5 66 67)), (0x20054200, .popc .L (rr 5 66 0)), (0x22054200, .clz .L (rr 5 66 0)),
   (0x24054200, .ctz .L (rr 5 66 0)), (0x26054200, .brev .L (rr 5 66 0)), (0x28054243, .bfx .L (rr 5 66 67)),
   (0x2A054243, .bfi .L (rr 5 66 67)), (0x2C054243, .clmul .L (rr 5 66 67)), (0x2E054243, .clmulh .L (rr 5 66 67)),
   (0x30054243, .and .L (rr 5 66 67)), (0x32054243, .or .L (rr 5 66 67)), (0x34054243, .xor .L (rr 5 66 67)),
   (0x36054200, .not .L (rr 5 66 0)), (0x38054243, .lgc3 .L (rr 5 66 67)), (0x3A054200, .mov .L (rr 5 66 0)),
   (0x3C054243, .sel .L (rr 5 66 67)), (0x3E014243, .icmp .L (rr 1 66 67)), (0x40054243, .fadd .L (rr 5 66 67)),
   (0x42054243, .fsub .L (rr 5 66 67)), (0x44054243, .fmul .L (rr 5 66 67)), (0x46054243, .fma .L (rr 5 66 67))] = true := by decide

theorem test_decode_arithmetic_2 : reads .L [
   (0x48054243, .fmin .L (rr 5 66 67)), (0x4A054243, .fmax .L (rr 5 66 67)), (0x4C054200, .fabs .L (rr 5 66 0)),
   (0x4E054200, .fneg .L (rr 5 66 0)), (0x50054243, .fcopysign .L (rr 5 66 67)), (0x52054200, .frcp .L (rr 5 66 0)),
   (0x54054200, .frsq .L (rr 5 66 0)), (0x56054200, .fsqrt .L (rr 5 66 0)), (0x58054200, .fexp2 .L (rr 5 66 0)),
   (0x5A054200, .flog2 .L (rr 5 66 0)), (0x5C054200, .fround .L (rr 5 66 0)), (0x5E054200, .fclass .L (rr 5 66 0)),
   (0x60014243, .fcmp .L (rr 1 66 67)), (0x62054200, .cvt .L (rr 5 66 0)), (0x64054243, .cvtpk .L (rr 5 66 67)),
   (0x66054200, .cvtsp .L (rr 5 66 0)), (0x68010000, .plop .L (rr 1 0 0)), (0x6A050000, .ppack .L (rr 5 0 0)),
   (0x6C004200, .punpk .L (rr 0 66 0)), (0x80054243, .xfrom (rr 5 66 67)), (0x82054243, .xlow (rr 5 66 67)),
   (0x84054243, .xhigh (rr 5 66 67)), (0x86054243, .xpair (rr 5 66 67)), (0x88010000, .vany (rr 1 0 0)),
   (0x8A010000, .vall (rr 1 0 0)), (0x8C050000, .vballot (rr 5 0 0)), (0x8E054200, .scanadd (rr 5 66 0)),
   (0x90054200, .scanxor (rr 5 66 0)), (0x92054200, .scanmax (rr 5 66 0)), (0x94054200, .scanmin (rr 5 66 0)),
   (0x96054200, .redadd (rr 5 66 0)), (0x98054200, .redmax (rr 5 66 0)), (0x9A054200, .redmin (rr 5 66 0)),
   (0x9C054200, .redxor (rr 5 66 0)), (0x9E004200, .srseed (rr 0 66 0))] = true := by decide

theorem test_decode_memory_1 : reads .M [
   (0x00054241, .ldG (mm 5 66 2 0 1)), (0x02054241, .ldSh (mm 5 66 2 0 1)), (0x04054241, .ldSp (mm 5 66 2 0 1)),
   (0x08054241, .stG (mm 5 66 2 0 1)), (0x0A054241, .stSh (mm 5 66 2 0 1)), (0x0C054241, .stSp (mm 5 66 2 0 1)),
   (0x10054241, .atomGAdd (mm 5 66 2 0 1)), (0x12054241, .atomGMin (mm 5 66 2 0 1)),
   (0x14054241, .atomGMax (mm 5 66 2 0 1)), (0x16054241, .atomGAnd (mm 5 66 2 0 1)),
   (0x18054241, .atomGOr (mm 5 66 2 0 1)), (0x1A054241, .atomGXor (mm 5 66 2 0 1)),
   (0x1C054241, .atomGXchg (mm 5 66 2 0 1)), (0x1E054241, .atomGCas (mm 5 66 2 0 1)),
   (0x20054241, .atomGFadd (mm 5 66 2 0 1)), (0x22054241, .atomGFmin (mm 5 66 2 0 1)),
   (0x24054241, .atomGFmax (mm 5 66 2 0 1)), (0x30054241, .atomShAdd (mm 5 66 2 0 1)),
   (0x32054241, .atomShMin (mm 5 66 2 0 1)), (0x34054241, .atomShMax (mm 5 66 2 0 1)),
   (0x36054241, .atomShAnd (mm 5 66 2 0 1)), (0x38054241, .atomShOr (mm 5 66 2 0 1)),
   (0x3A054241, .atomShXor (mm 5 66 2 0 1)), (0x3C054241, .atomShXchg (mm 5 66 2 0 1)),
   (0x3E054241, .atomShCas (mm 5 66 2 0 1)), (0x40054241, .atomShFadd (mm 5 66 2 0 1)),
   (0x42054241, .atomShFmin (mm 5 66 2 0 1)), (0x44054241, .atomShFmax (mm 5 66 2 0 1)),
   (0x50054241, .atomSpAdd (mm 5 66 2 0 1)), (0x52054241, .atomSpMin (mm 5 66 2 0 1)),
   (0x54054241, .atomSpMax (mm 5 66 2 0 1)), (0x56054241, .atomSpAnd (mm 5 66 2 0 1)),
   (0x58054241, .atomSpOr (mm 5 66 2 0 1)), (0x5A054241, .atomSpXor (mm 5 66 2 0 1)),
   (0x5C054241, .atomSpXchg (mm 5 66 2 0 1)), (0x5E054241, .atomSpCas (mm 5 66 2 0 1))] = true := by decide

theorem test_decode_memory_2 : reads .M [
   (0x60054241, .atomSpFadd (mm 5 66 2 0 1)), (0x62054241, .atomSpFmin (mm 5 66 2 0 1)),
   (0x64054241, .atomSpFmax (mm 5 66 2 0 1)), (0x70000001, .fence (rr 0 0 1)), (0x72000000, .vfence (rr 0 0 0)),
   (0x74024200, .barSet (rr 2 66 0)), (0x76020000, .barArr (rr 2 0 0)), (0x78020000, .barSync (rr 2 0 0)),
   (0x7A034200, .tbExpect (rr 3 66 0)), (0x7C034200, .tbArrive (rr 3 66 0)), (0x7E034200, .tbWait (rr 3 66 0)),
   (0x80004243, .ccWait (rr 0 66 67)), (0x82014200, .qpush (rr 1 66 0))] = true := by decide

theorem test_decode_control : reads .K [
   (0x00701234, .bra (bb 7 0 0x1234)), (0x02701234, .braLead (bb 7 0 0x1234)), (0x04721234, .call (bb 7 2 0x1234)),
   (0x06724200, .callr (bb 7 2 0x4200)), (0x08000000, .ret (rr 0 0 0)), (0x0A704200, .brar (bb 7 0 0x4200)),
   (0x0C000000, .exit (rr 0 0 0)), (0x0E004200, .trap (rr 0 66 0)), (0x10000000, .tret (rr 0 0 0)),
   (0x12004200, .regang (rr 0 66 0))] = true := by decide

theorem test_decode_tile : reads .T [
   (0x00024200, .tsRsv (rr 2 66 0)), (0x02020000, .tsRel (rr 2 0 0)), (0x04024200, .tsRec (rr 2 66 0)),
   (0x06024243, .tsWr (rr 2 66 67)), (0x08054202, .tsRd (rr 5 66 2)), (0x0A020000, .tsSync (rr 2 0 0)),
   (0x0C020000, .tsCk (rr 2 0 0)), (0x0E054202, .tsCks (rr 5 66 2)), (0x10004200, .gangSet (rr 0 66 0)),
   (0x12034202, .mma (rr 3 66 2)), (0x14034202, .mmaZ (rr 3 66 2)), (0x16004200, .commit (rr 0 66 0)),
   (0x18004243, .commitOrd (rr 0 66 67)), (0x1A004243, .accClose (rr 0 66 67)), (0x1C034202, .fragLd (rr 3 66 2)),
   (0x1E030000, .fragCks (rr 3 0 0))] = true := by decide

theorem test_decode_limb : reads .C [
   (0x00000000, .lbind (rr 0 0 0)), (0x02000000, .lunbind (rr 0 0 0)), (0x04034243, .ladd (rr 3 66 67)),
   (0x06034243, .laddc (rr 3 66 67)), (0x08034243, .lsub (rr 3 66 67)), (0x0A034243, .lsubb (rr 3 66 67)),
   (0x0C034200, .lneg (rr 3 66 0)), (0x0E014243, .lcmp (rr 1 66 67)), (0x10034243, .lshl (rr 3 66 67)),
   (0x12034243, .lshr (rr 3 66 67)), (0x14034243, .lshlw (rr 3 66 67)), (0x16034243, .lshrw (rr 3 66 67)),
   (0x18034243, .lmac (rr 3 66 67)), (0x1A034243, .lnorm (rr 3 66 67)), (0x1C034200, .lld (rr 3 66 0)),
   (0x1E004243, .lst (rr 0 66 67)), (0x20050000, .lovf (rr 5 0 0))] = true := by decide

theorem test_decode_engine : reads .E [
   (0x000D4200, .copy (ee 3 1 66 0)), (0x020D4202, .copyts (ee 3 1 66 2)), (0x04004200, .collStart (ee 0 0 66 0)),
   (0x06004243, .collRearm (ee 0 0 66 67)), (0x08004243, .collReady (ee 0 0 66 67)),
   (0x0A004243, .cardEnq (ee 0 0 66 67)), (0x0C004243, .graphLaunch (ee 0 0 66 67)),
   (0x0E0C4200, .tbInit (ee 3 0 66 0)), (0x10004243, .cntInit (ee 0 0 66 67)), (0x12004243, .wgtSet (ee 0 0 66 67))] = true := by decide

theorem test_decode_system : reads .S [
   (0x00050500, .rdsr (rr 5 5 0)), (0x02054200, .wrsr (rr 5 66 0)), (0x04004200, .brk (rr 0 66 0)),
   (0x06004243, .sstep (rr 0 66 67)), (0x08014243, .wptArm (rr 1 66 67)), (0x0A010000, .wptClr (rr 1 0 0)),
   (0x0C014243, .pcmpSet (rr 1 66 67)), (0x0E010000, .pcmpClr (rr 1 0 0)), (0x10004243, .prefetch (rr 0 66 67)),
   (0x12004243, .cinv (rr 0 66 67)), (0x14004243, .cwb (rr 0 66 67)), (0x16004200, .smpl (rr 0 66 0)),
   (0x18004200, .mboxWr (rr 0 66 0)), (0x1A004243, .halt (rr 0 66 67)), (0x1C004243, .resume (rr 0 66 67))] = true := by decide
/-! Words that the spec writes out, with their operands. -/

/-- 06, the clause of four words at the head of the notes, and a header of 05 R78. -/
theorem test_decode_clause :
    (match decodeClause 0xF4104700 [0x440501C5, 0x40808002, 0x470780C9, 0x81704000] with
      | .ok (h, l) => h == { n := 4, cls := .L, wait := 4, pn := false, p := 7, last := false, yield := false } &&
          l.map (·.2) == [.fmul .L (rr 5 1 197), .fadd .L { rr 0 128 2 with w := true }, .fma .L (rx (rr 7 128 201) (ex 129 0x4000))]
      | .error _ => false) = true ∧
    headerOf 0xF4102700 .L = { n := 4, cls := .L, wait := 2, pn := false, p := 7, last := false, yield := false } := by decide

/-- Examples of 09, 11, 12, 13, 15, 16, 17, 19 and 20. -/
theorem test_decode_examples : ([
    (.L, [0x2C0302DF], .clmul .L (rr 3 2 0xDF)),
    (.L, [0x91058000, 0x00700008], .scanxor (rx (rr 5 128 0) (ex 0 8))),
    (.L, [0x3F018DEA, 0x00700002], .icmp .L (rx (rr 1 0x8D 0xEA) (ex 0 2))),
    (.U, [0x3B468000, 0x0071AAAA], .mov .U (rx (rr 70 128 0) (ex 0 0x1AAAA))),
    (.U, [0x14548EE6], .shl .U (rr 84 142 0xE6)),
    (.M, [0x09474444, 0x00700004], .stG (mx (mm 71 68 2 0 4) (ex 0 4))),
    (.M, [0x1D484444, 0x46700004], .atomGXchg (mx (mm 72 68 2 0 4) (ex 70 4))),
    (.M, [0x0B0B1441, 0x00700008], .stSh (mx (mm 11 20 2 0 1) (ex 0 8))),
    (.M, [0x084A4674], .stG (mm 74 70 3 2 4)),
    (.M, [0x7A034900], .tbExpect (rr 3 73 0)),
    (.M, [0x8100484A, 0x00700004], .ccWait (rx (rr 0 72 74) (ex 0 4))),
    (.K, [0x0010000A], .bra (bb 1 0 10)),
    (.K, [0x0220FFF3], .braLead (bb 2 0 0xFFF3)),
    (.K, [0x1200FF00], .regang (rr 0 255 0)),
    (.T, [0x10004200], .gangSet (rr 0 66 0)),
    (.T, [0x1210E102], .mma (rr 16 225 2)),
    (.T, [0x1410E002], .mmaZ (rr 16 224 2)),
    (.T, [0x17004800, 0x00760000], .commit (rx (rr 0 72 0) { ex 0 0 with ws := 3 })),
    (.T, [0x06060B5C], .tsWr (rr 6 11 92)),
    (.C, [0x04030102], .ladd (rr 3 1 2)),
    (.E, [0x01155400, 0x00720000], .copy (fx (ee 5 1 84 0) { ex 0 0 with ws := 1 })),
    (.E, [0x1200E1E3], .wgtSet (ee 0 0 225 227))] : List (Cls × List Word × Instr)).all (fun x => decodeNext x.1 x.2.1 == some (x.2.2, [])) = true := by decide

/-! Ill-formed terms: each check of 05 R106 refuses one, with its reason. -/

/-- What 05 R107 puts into ENCDET for a clause: word index and reason. -/
def refusal (h : Word) (ws : List Word) : Option (Nat × Nat) :=
  match decodeClause h ws with | .error e => some (e.widx, e.reason) | .ok _ => none

/-- Headers and words (05 R78, R82, R106): a reserved class, no words, reserved header bits, a negated p7, a reserved opcode, X on the
last word, an empty latch, a marker among the words, and a transfer that is not the last. -/
theorem test_ill_formed_clauses :
    refusal 0xF1800700 [0x00030102] = some (0, 0) ∧ refusal 0xF0100700 [] = some (0, 1) ∧ refusal 0xF1100780 [0x00030102] = some (0, 2) ∧
    refusal 0xF1100F00 [0x00030102] = some (0, 3) ∧ refusal 0xF1100700 [0xEE000000] = some (1, 4) ∧
    refusal 0xF1100700 [0x01030102] = some (1, 6) ∧ refusal 0xF1100700 [0x00038102] = some (1, 8) ∧
    refusal 0xF1100700 [0xF0030102] = some (1, 9) ∧ refusal 0xF2300700 [0x0010000A, 0x0C000000] = some (1, 10) ∧
    refusal 0xF2100700 [0x01030102, 0x00F00000] = some (2, 3) := by decide

/-- Fields of F-R words (05 R83-R85, R89-R92; 09 R152, R153, R161, R172-R174): destinations, W, sources, the extension word's predicate,
third source, slot and modifier, and the values that an entry does not admit. -/
theorem test_ill_formed_words :
    reasons (.iadd .L (rr 3 1 2)) = [] ∧ reasons (.iadd .U (rr 3 64 65)) = [5] ∧ reasons (.iadd .U (rr 66 1 65)) = [5] ∧
    reasons (.iadd .L (rr 3 144 2)) = [5] ∧ reasons (.iadd .L (rr 3 132 2)) = [5] ∧ reasons (.icmp .L { rr 1 1 2 with w := true }) = [7] ∧
    reasons (.icmp .L (rr 9 1 2)) = [7] ∧ reasons (.iabs .L (rr 3 1 2)) = [7] ∧ reasons (.iadd .L (rx (rr 3 1 2) (ex 4 0))) = [7] ∧
    reasons (.imad .L (rx (rr 3 1 2) (ex 150 0))) = [5] ∧ reasons (.iadd .L (rx (rr 3 1 2) { ex 0 0 with pn := true })) = [3] ∧
    reasons (.iadd .L (rx (rr 3 1 2) { ex 0 0 with ws := 1 })) = [7] ∧ reasons (.iabs .L (rx (rr 3 1 0) (ex 0 0x10))) = [7] ∧
    reasons (.icmp .L (rx (rr 1 1 2) (ex 0 6))) = [7] ∧ reasons (.idivs .L (rr 3 4 2)) = [7] ∧
    reasons (.fadd .L (rx (rr 3 1 2) (ex 0 0x1E0))) = [7] ∧ reasons (.xlow (rx (rr 3 1 2) (ex 0 6))) = [7] ∧
    reasons (.cvtpk .L (rr 3 1 2)) = [7] ∧ reasons (.tsWr (rr 16 1 2)) = [7] ∧ reasons (.lbind (rr 0 0 0)) = [7] ∧
    reasons (.ladd (rr 65 1 2)) = [7] ∧ reasons (.qpush (rr 1 64 0)) = [7] ∧ reasons (.rdsr (rr 3 99 0)) = [7] := by decide

/-- Fields of memory words (11 R185-R192), transfers (05 R87; 13 R220) and class E words (05 R88; 19 R323). -/
theorem test_ill_formed_formats :
    reasons (.ldG (mm 4 2 2 0 4)) = [] ∧ reasons (.stG { mm 4 2 2 0 4 with w := true }) = [7] ∧ reasons (.ldG (mm 5 2 4 0 4)) = [7] ∧
    reasons (.ldG (mm 68 2 2 0 4)) = [5] ∧ reasons (.ldG (mm 4 3 2 0 4)) = [7] ∧ reasons (.ldG (mm 4 2 5 0 4)) = [7] ∧
    reasons (.ldG (mm 4 2 2 2 4)) = [7] ∧ reasons (.ldG (mm 4 2 2 0 7)) = [7] ∧ reasons (.ldSh (mm 4 2 2 0 2)) = [7] ∧
    reasons (.atomGCas (mm 4 2 2 0 4)) = [7] ∧ reasons (.atomGAdd (mx (mm 68 66 2 0 4) (ex 3 0))) = [7, 7] ∧
    reasons (.bra (bb 1 0 10)) = [] ∧ reasons (.bra { bb 7 0 10 with n := true }) = [3] ∧ reasons (.call (bb 1 9 10)) = [7] ∧
    reasons (.bra (bb 1 1 10)) = [7] ∧ reasons (.callr (bx (bb 1 0 0x4000) (ex 140 0))) = [7] ∧ reasons (.callr (bb 1 0 0x4001)) = [7] ∧
    reasons (.brar (bb 1 0 0x4100)) = [7] ∧ reasons (.bra (bx (bb 1 0 10) { ex 140 0 with p := 2 })) = [7] ∧
    reasons (.wgtSet (ee 0 0 1 66)) = [7] ∧ reasons (.cardEnq (ee 1 0 66 67)) = [7] ∧ reasons (.copy (ee 0 3 66 0)) = [7] ∧
    reasons (.wgtSet (fx (ee 0 0 66 67) (ex 0 1))) = [7] := by decide

/-- A step of the hardware, which has no word, is no well-formed instruction; a word with legal fields is. -/
theorem test_well_formed :
    WellFormed .flitRetry = false ∧ WellFormed (.iadd .U (rr 3 64 65)) = false ∧ WellFormed (.iadd .L (rr 3 1 2)) = true := by decide

/-! One group of a team in a clause. -/

def hd (c : Cls) : Header := { n := 1, cls := c, wait := 0, pn := false, p := 7, last := false, yield := false }
/-- Lane registers v1, v2, … of clean words. -/
def regs (l : List Word) : Tbl PWord := (l.zip (List.range 16)).map fun x => (x.2 + 1, clean x.1)
def th (l : List Word) : Thread := { pc := 0x1000, v := regs l }
def gr (l : List (List Word)) : Group := { ba := 64, th := (l.zip (List.range 32)).map fun x => (x.2, th x.1) }
def tm (g : Group) : Team :=
  { groups := [(0, g)], shSize := 4096, tbn := 4, card := { roles := [(1, 64, 0x1000)] }, uid := 7, hframe := 8, hentry := 0x2000 }
def cl (c : Cls) (live : List Nat) : Issue := { tk := 0, g := 0, pc := 0x1000, header := hd c, cand := live, live := live, words := [] }
def st (m : Team) (i : Issue) : State := { State.reset with dt := 1000, spsize := 4096, teams := [(0, m)], issues := [i] }
/-- The next state, reset where there is none. -/
def nxt (o : Host.Outcome State Fault Refusal) : State := match o with | .next s => s | _ => State.reset
/-- Does an instruction answer a next state? -/
def goes (o : Host.Outcome State Fault Refusal) : Bool := match o with | .next _ => true | _ => false
/-- A state of class `c` with one thread for each list of lane registers. -/
def run (c : Cls) (l : List (List Word)) : State := st (tm (gr l)) (cl c (List.range l.length))
/-- v3 after a word whose thread holds `a`, `b` and `c` in v1, v2 and v4. -/
def gives (l : List (Instr × Word × Word × Word × Word)) : Bool :=
  l.all fun (x, a, b, c, d) => (nxt (exec x (run .L [[a, b, 0, c]]))).getR 0 0 0 3 == clean d

/-! Values that the spec works out, or that its formulas give by hand (09). -/

theorem test_integer_values : gives [
    (.iadd .L (rx (rr 3 1 2) (ex 0 0x2000)), 0x7FFFFFFF, 1, 0, 0x7FFFFFFF), (.isub .L (rr 3 1 2), 3, 5, 0, 0xFFFFFFFE),
    (.imul .L (rr 3 1 2), 0xFFFFFFFF, 2, 0, 0xFFFFFFFE), (.imulhi .L (rr 3 1 2), 0xFFFFFFFF, 2, 0, 0xFFFFFFFF),
    (.imulhi .L (rx (rr 3 1 2) (ex 0 0x10)), 0xFFFFFFFF, 2, 0, 1), (.imad .L (rx (rr 3 1 2) (ex 4 0)), 3, 4, 5, 17),
    (.imin .L (rr 3 1 2), 0xFFFFFFFF, 1, 0, 0xFFFFFFFF), (.imax .L (rx (rr 3 1 2) (ex 0 0x10)), 0xFFFFFFFF, 1, 0, 0xFFFFFFFF),
    (.iabs .L (rr 3 1 0), 0x80000000, 0, 0, 0x80000000), (.ineg .L (rx (rr 3 1 0) (ex 0 0x2000)), 0x80000000, 0, 0, 0x7FFFFFFF),
    (.shl .L (rr 3 1 2), 1, 0x101, 0, 2), (.shl .L (rr 3 1 2), 1, 33, 0, 0), (.shr .L (rr 3 1 2), 0x80000000, 31, 0, 1),
    (.sar .L (rr 3 1 2), 0x80000000, 40, 0, 0xFFFFFFFF), (.rotl .L (rr 3 1 2), 0x80000001, 1, 0, 3),
    (.rotr .L (rr 3 1 2), 1, 33, 0, 0x80000000), (.dsh .L (rx (rr 3 1 2) (ex 4 0)), 0x11111111, 0x22222222, 8, 0x22111111),
    (.dsh .L (rx (rr 3 1 2) (ex 4 1)), 0x11111111, 0x22222222, 8, 0x22222211)] = true := by decide

/-- 09 R156: one step of 7 / 2 with Q = 7 << 29 in v4 and M = 1 in v5: the bit shifted in makes 3, which holds 2 once. -/
theorem test_idivs :
    (let t := nxt (exec (.idivs .L (rr 6 4 2)) (run .L [[0, 2, 0, 0xE0000000, 1]]))
     (t.getR 0 0 0 6, t.getR 0 0 0 7)) = (clean 0xC0000001, clean 1) := by decide

theorem test_bit_values : gives [
    (.popc .L (rr 3 1 0), 0xF0F0, 0, 0, 8), (.clz .L (rr 3 1 0), 0x00010000, 0, 0, 15), (.clz .L (rr 3 1 0), 0, 0, 0, 32),
    (.ctz .L (rr 3 1 0), 8, 0, 0, 3), (.brev .L (rr 3 1 0), 1, 0, 0, 0x80000000), (.bfx .L (rr 3 1 2), 0xF30, 0x804, 0, 0xFFFFFFF3),
    (.bfx .L (rx (rr 3 1 2) (ex 0 0x10)), 0xF30, 0x804, 0, 0xF3), (.bfi .L (rx (rr 3 1 2) (ex 4 0)), 0xFFFFFFFF, 0x804, 0, 0xFFFFF00F),
    (.clmul .L (rr 3 1 2), 3, 3, 0, 5), (.clmulh .L (rr 3 1 2), 0x80000000, 0x80000000, 0, 0x40000000),
    (.and .L (rr 3 1 2), 0xC, 0xA, 0, 8), (.or .L (rr 3 1 2), 0xC, 0xA, 0, 0xE), (.xor .L (rr 3 1 2), 0xC, 0xA, 0, 6),
    (.not .L (rr 3 1 0), 0, 0, 0, 0xFFFFFFFF), (.lgc3 .L (rx (rr 3 1 2) (ex 4 0xAA)), 0x1234, 0x5678, 0x9ABC, 0x1234),
    (.mov .L (rx (rr 3 1 0) (ex 0 0x15678)), 0x1234, 0, 0, 0x56781234), (.sel .L (rx (rr 3 1 2) (ex 0 0xF)), 1, 2, 0, 2)] = true := by decide

/-- 05 and 06 give fma 4.125; the other values are exact or fixed by 09 R162-R166. -/
theorem test_float_values : gives [
    (.fadd .L (rr 3 1 2), 0x3F800000, 0x40000000, 0, 0x40400000), (.fsub .L (rr 3 1 2), 0x3F800000, 0x3F800000, 0, 0),
    (.fmul .L (rr 3 1 2), 0x40400000, 0x3F000000, 0, 0x3FC00000), (.fma .L (rx (rr 3 1 2) (ex 4 0x4000)), 0x3FE00000, 0x3FC00000, 0x3FC00000, 0x40840000),
    (.fmin .L (rr 3 1 2), 0, 0x80000000, 0, 0x80000000), (.fmax .L (rr 3 1 2), 0x80000000, 0, 0, 0),
    (.fabs .L (rr 3 1 0), 0xBF800000, 0, 0, 0x3F800000), (.fneg .L (rr 3 1 0), 0, 0, 0, 0x80000000),
    (.fcopysign .L (rr 3 1 2), 0x3F800000, 0x80000000, 0, 0xBF800000), (.frcp .L (rr 3 1 0), 0x40000000, 0, 0, 0x3F000000),
    (.frsq .L (rr 3 1 0), 0x40800000, 0, 0, 0x3F000000), (.fsqrt .L (rr 3 1 0), 0x41100000, 0, 0, 0x40400000),
    (.fexp2 .L (rr 3 1 0), 0x40400000, 0, 0, 0x41000000), (.flog2 .L (rr 3 1 0), 0x41000000, 0, 0, 0x40400000),
    (.fround .L (rr 3 1 0), 0x40200000, 0, 0, 0x40000000), (.fclass .L (rr 3 1 0), 0x7FC00000, 0, 0, 0x100),
    (.fclass .L (rr 3 1 0), 0x80000000, 0, 0, 8)] = true := by decide +kernel

/-- 09 R175, worked out there: `cvtpk.e4m3.f32 v9, v1, v2, 1`, which raises OF, NX and SA; FP32 to INT32 and back (R172, R174). -/
theorem test_conversions :
    (let t := nxt (exec (.cvtpk .L (rx (rr 9 1 2) (ex 0 0x601))) (run .L [[0x3F800000, 0x43EB0000, 0, 0, 0, 0, 0, 0, 0x11223344]]))
     (t.getR 0 0 0 9, (t.thread 0 0 0).map (·.fstat))) = (clean 0x7E383344, some (wn (OF ||| NX ||| SA))) ∧
    gives [(.cvt .L (rx (rr 3 1 0) (ex 0 0x1000)), 0xC0200000, 0, 0, 0xFFFFFFFE), (.cvtsp .L (rx (rr 3 1 0) (ex 0 0x61)), 0x7E38, 0, 0, 0x43E00000)] = true := by
  decide
/-- Four threads that hold 5, 0xFFFFFFFF, 7 and 5 in v1, and lane numbers to read in v2. -/
def four : State := run .L [[5, 1], [0xFFFFFFFF, 1], [7, 1], [5, 2]]
/-- v3 of the four threads after a word. -/
def vec (x : Instr) : List Word := (List.range 4).map fun l => ((nxt (exec x four)).getR 0 0 l 3).val

/-- 09 R176-R178 on the four threads, segments of four: thread 3 reads two places away, thread 1 has no partner under `xpair` in a
segment of one, and the signed maximum is 7 where the unsigned one is 0xFFFFFFFF. -/
theorem test_lanes :
    vec (.xfrom (rx (rr 3 1 2) (ex 0 3))) = [0xFFFFFFFF, 0xFFFFFFFF, 0xFFFFFFFF, 7] ∧
    vec (.xlow (rx (rr 3 1 2) (ex 0 3))) = [5, 5, 0xFFFFFFFF, 0xFFFFFFFF] ∧ vec (.xhigh (rx (rr 3 1 2) (ex 0 3))) = [0xFFFFFFFF, 7, 5, 0xFFFFFFFF] ∧
    vec (.xpair (rx (rr 3 1 2) (ex 0 3))) = [0xFFFFFFFF, 5, 5, 0xFFFFFFFF] ∧ vec (.xlow (rx (rr 3 1 142) (ex 1 0))) = [5, 0xFFFFFFFF, 7, 5] ∧
    vec (.scanadd (rr 3 1 0)) = [5, 4, 11, 16] ∧ vec (.scanadd (rx (rr 3 1 0) (ex 0 8))) = [0, 5, 4, 11] ∧
    vec (.scanxor (rr 3 1 0)) = [5, 0xFFFFFFFA, 0xFFFFFFFD, 0xFFFFFFF8] ∧ vec (.scanmax (rr 3 1 0)) = [5, 5, 7, 7] ∧
    vec (.scanmin (rx (rr 3 1 0) (ex 0 0x10))) = [5, 5, 5, 5] ∧ vec (.redadd (rr 3 1 0)) = [16, 16, 16, 16] ∧
    vec (.redmax (rx (rr 3 1 0) (ex 0 0x10))) = [0xFFFFFFFF, 0xFFFFFFFF, 0xFFFFFFFF, 0xFFFFFFFF] ∧
    vec (.redmin (rr 3 1 0)) = [0xFFFFFFFF, 0xFFFFFFFF, 0xFFFFFFFF, 0xFFFFFFFF] ∧
    vec (.redxor (rr 3 1 0)) = [0xFFFFFFF8, 0xFFFFFFF8, 0xFFFFFFF8, 0xFFFFFFF8] := by decide

/-- The predicates of thread 0 after a word on 1 in v1 and 0xFFFFFFFF in v2, and 2.0 and NaN in v4 and v5. -/
def preds (x : Instr) : BitVec 8 := ((nxt (exec x (run .L [[1, 0xFFFFFFFF, 0, 0x40000000, 0x7FC00000]]))).thread 0 0 0).map (·.p) |>.getD 0

/-- 09 R167-R171: signed and unsigned compares, unordered compares, and p7, whose write is discarded. -/
theorem test_predicates :
    preds (.icmp .L (rx (rr 1 1 2) (ex 0 4))) = 2 ∧ preds (.icmp .L (rx (rr 1 1 2) (ex 0 0x12))) = 2 ∧ preds (.icmp .L (rx (rr 1 1 2) (ex 0 2))) = 0 ∧
    preds (.fcmp .L (rx (rr 2 4 5) (ex 0 6))) = 4 ∧ preds (.fcmp .L (rx (rr 2 4 5) (ex 0 2))) = 0 ∧ preds (.fcmp .L (rx (rr 2 4 5) (ex 0 1))) = 4 ∧
    preds (.plop .L (rx (rr 0 0 0) (ex 0 0x1C080))) = 0 ∧ preds (.plop .L (rx (rr 0 0 0) (ex 0 0x1FF80))) = 1 ∧
    preds (.punpk .L (rr 0 2 0)) = 0x7F ∧ preds (.icmp .L (rx (rr 7 1 2) (ex 0 4))) = 0 := by decide

/-- 09 R171, R177, R179: the packed predicates, with p7 true, a ballot of p7, and a seed of 0. -/
theorem test_votes :
    (nxt (exec (.ppack .L (rr 3 0 0)) four)).getR 0 0 1 3 = clean 0x80 ∧ vec (.vballot (rx (rr 3 0 0) (ex 0 7))) = [15, 15, 15, 15] ∧
    vec (.vballot (rx (rr 3 0 0) (ex 0 0x47))) = [3, 3, 12, 12] ∧
    ((nxt (exec (.vall (rx (rr 1 0 0) (ex 0 7))) four)).thread 0 0 2).map (·.p) = some 2 ∧
    ((nxt (exec (.vany (rx (rr 1 0 0) (ex 0 15))) four)).thread 0 0 2).map (·.p) = some 0 ∧
    ((nxt (exec (.srseed (rr 0 140 0)) four)).thread 0 0 3).map (·.srs) = some 1 := by decide

/-- Four threads of which two hold p1, and a word under p1 with destination v3 or s3. -/
def two : Group :=
  { gr [[5, 1], [6, 2], [7, 3], [8, 4]] with th := (List.range 4).map fun n => (n, { th [5, 1] with p := if n < 2 then 2 else 0 }) }
def under1 (d : Nat) : FR := rx (rr d 1 2) { ex 4 0 with p := 1 }

/-- The hypotheses of the statements on words of classes U and L: two threads of four take a word under p1, whose destination is v3 or s3,
and in class U s3. -/
theorem test_alu_hypotheses :
    Issuing (st (tm two) (cl .L [0, 1, 2, 3])) (cl .L [0, 1, 2, 3]) (tm two) two ∧ CleanPred (cl .L [0, 1, 2, 3]) two (under1 3).ext ∧
    takers (cl .L [0, 1, 2, 3]) two (under1 3).ext = [0, 1] ∧ NoQueue (srcABC (under1 3)) ∧ Fits .L (under1 3) two 1 ∧
    Fits .L (under1 67) two 2 ∧ Fits .U (under1 67) two 1 :=
  ⟨⟨rfl, rfl, rfl, by decide, by decide⟩,
   show ∀ t ∈ [0, 1, 2, 3], ((two.thread t).predN 1 false).poison = false from by decide,
   by decide, by unfold NoQueue; decide, .inl (by decide), .inr (by decide), .inr (by decide)⟩

/-- The source codes of 05 R91, in thread 1 of a group bound to two limbs: v1, s2, an empty latch, lane, group, limb and constants. -/
theorem test_sources :
    (let g : Group := { gr [[5], [6], [7], [8]] with s := [(2, clean 9)], limbs := some 2 }
     let s := st (tm g) (cl .L [0, 1, 2, 3])
     let x := s.src (cl .L [0, 1, 2, 3]) kInt 1
     [x 1, x 66, x 128, x 140, x 141, x 142, x 143, x 225, x 223, x 192] =
       [clean 6, clean 9, clean 0, clean 0, clean 1, clean 0, clean 1, clean 1, clean 0xFFFFFFFF, clean 0xFFFFFFE0]) := by decide

/-! States that meet the hypotheses of the statements, each with what they ask. -/

/-- The ends of the register files: v63 alone, v62 and v63, s62 and s63, and s63 alone; and the sources of a division step and of a
conversion from 64 bits. -/
theorem test_alu_boundaries :
    Fits .L (rr 63 1 2) two 1 ∧ Fits .L (rr 62 1 2) two 2 ∧ Fits .L (rr 126 1 2) two 2 ∧ Fits .U (rr 127 1 2) two 1 ∧
    NoQueue ((pairCodes 2).map (·, kInt) ++ [(66, kInt)]) ∧ NoQueue (cvtCodes .f64 2) :=
  ⟨.inl (by decide), .inl (by decide), .inr (by decide), .inr (by decide), by unfold NoQueue; decide, by unfold NoQueue; decide⟩

/-- One thread of a team that has shared memory, two barriers, a transaction barrier, a queue, a poisoned s5 and a page at hand. -/
def gX : Group :=
  { gr [[8, 0x11223344, 0x2000, 0xAABBCCDD, 4, 5, 0x10, 7]] with s := [(2, clean 16), (3, clean 1), (5, poisoned)] }
def mX : Team :=
  { tm gX with
    sh := msets [] 8 (leBytes 8 0x8877665544332211), tbs := [(2, { pend := 16, phase := true })], q := [(2, [clean 1])]
    bars := [(3, { roles := 1, e := 2, a := 1, arrived := [32], phase := true, pend := 1 }), (5, { e := 3 })] }
def iX : Issue := cl .M [0]
def sX : State :=
  { st mX iX with
    nextId := 9, mem := msets [] 0x40000010 (leBytes 8 4)
    cores := [(0, { lastPage := [(0, { ctx := 0, level := 0, page := 0, pte := 0x4000001D })] })] }

theorem issuing_x : Issuing sX iX mX gX := ⟨rfl, rfl, rfl, by decide, by decide⟩
/-- The hypotheses that the statements on words of class M share, without an extension word and with one. -/
theorem test_memory_ready : MemReady sX iX mX gX none 0 ∧ MemReady sX iX mX gX (some (ex 4 16)) 0 :=
  ⟨⟨issuing_x, trivial, rfl, by decide, by decide, by decide, rfl, by decide⟩,
   ⟨issuing_x, show ∀ t ∈ [0], ((gX.thread t).predN 7 false).poison = false from by decide, by decide, by decide, by decide, by decide,
    rfl, by decide⟩⟩

/-- Shared memory at 8 and at the last eight bytes, with a destination at each end of its file; every atomic has its operands. -/
theorem test_shared_hypotheses :
    (base sX iX .sh (mm 20 1 3 0 0) 0).2 = false ∧ InSpace (ea sX iX .sh (mm 20 1 3 0 0) 0) mX.shSize 8 ∧
    InSpace (ea sX iX .sh (mx (mm 20 140 3 0 0) (ex 4 4088)) 0) mX.shSize 8 ∧ FitsM (mm 62 1 3 0 0) iX gX 2 ∧ FitsM (mm 126 1 3 0 0) iX gX 2 ∧
    (sharedAtomics.all fun p => !(operand sX iX p.2 (mx (mm 20 1 2 0 0) (ex 4 0)) 0).2.2) = true ∧ mX.shMarked 8 8 = false :=
  ⟨by decide, by unfold InSpace; decide, by unfold InSpace; decide, .inl (by decide),
   .inr ⟨by decide, by decide, by decide⟩, by decide, by decide⟩

/-- Global memory at 16, by a page that admits the access, and the last bytes of the scratchpad; operands of stores and atomics. -/
theorem test_sent_hypotheses :
    (let f := mx (mm 20 140 3 3 4) (ex 4 16)
     (base sX iX .g f 0).2 = false ∧ InSpace (ea sX iX .g f 0) (2 ^ 56) 8 ∧ (stored sX iX f 0).2 = false ∧
       (globalAtomics.all fun p => !(operand sX iX p.2 f 0).2.2) = true ∧
       (scratchAtomics.all fun p => !(operand sX iX p.2 f 0).2.2) = true) ∧
    InSpace (ea sX iX .sp (mx (mm 20 140 3 0 2) (ex 4 4088)) 0) sX.spsize 8 ∧
    (∃ k r s, sX.xlate 0 (some (laneOf 0 0)) 0 16 .read = (.ok k r, s)) ∧ (∃ k r s, sX.xlate 0 (some (laneOf 0 0)) 0 16 .write = (.ok k r, s)) ∧
    ∃ k r s, sX.xlate 0 (some (laneOf 0 0)) 0 16 .atom = (.ok k r, s) :=
  ⟨⟨by decide, by unfold InSpace; decide, by decide, by decide, by decide⟩, by unfold InSpace; decide,
   ⟨_, _, _, rfl⟩, ⟨_, _, _, rfl⟩, ⟨_, _, _, rfl⟩⟩

/-- A poisoned base; an address past the scratchpad, and one that is not aligned. -/
theorem test_bad_addresses :
    gX.limbs = none ∧ (base sX iX .sh (mm 20 69 2 0 0) 0).2 = true ∧ (base sX iX .sp (mx (mm 20 140 2 0 2) (ex 4 4096)) 0).2 = false ∧
    ¬ InSpace (ea sX iX .sp (mx (mm 20 140 2 0 2) (ex 4 4096)) 0) sX.spsize 4 ∧
    ¬ InSpace (ea sX iX .sp (mx (mm 20 140 2 0 2) (ex 4 2)) 0) sX.spsize 4 ∧
    ((nxt (exec (.ldSh (mm 20 69 2 0 0)) sX)).thread 0 0 0).map (·.st) = some .exited :=
  ⟨by decide, by decide, by decide, by unfold InSpace; decide, by unfold InSpace; decide, by decide⟩

/-- A barrier with no arrivals to set, one whose phase ends and one whose phase goes on; pending counts that rise, fall, reach 0 and are
refused; an entry to pop. -/
theorem test_barrier_hypotheses :
    (mX.bar 4).a = 0 ∧ (sX.src iX kInt 0 67).poison = false ∧ (sX.src iX kInt 0 67).val.toNat % 16 < 2 ^ mX.card.roles.length ∧
    (mX.bar 3).roles.testBit gX.role = true ∧ 0 ∉ (mX.bar 3).arrived ∧ (mX.bar 3).a + 1 = (mX.bar 3).e ∧
    (mX.bar 5).roles.testBit gX.role = true ∧ (mX.bar 5).a + 1 ≠ (mX.bar 5).e ∧
    2 < mX.tbn ∧ (tget mX.tbs 2 {}).pend = 16 ∧ (sX.src iX kInt 0 66).val = 16 ∧ (sX.src iX kInt 0 67).val = 1 ∧
    2 ^ 24 ≤ 16 + (sX.src iX kInt 0 4).val.toNat ∧ tget mX.q 2 [] = [clean 1] := by decide

/-- The phase that ends: PHASE falls, the thread that arrived last waits for the phase that has passed. -/
theorem test_barriers :
    (let t := nxt (exec (.barSync (rr 3 0 0)) sX)
     ((t.team 0).map (·.bar 3), t.issues.map (·.waits)) =
       (some { roles := 1, e := 1, a := 0, arrived := [], phase := false, pend := 0, since := 0 }, [[(0, [.bar 3 true])]])) ∧
    (((nxt (exec (.tbArrive (rr 2 66 0)) sX)).team 0).bind fun m => tget? m.tbs 2) = some { pend := 0, phase := false } ∧
    (((nxt (exec (.tbExpect (rr 2 66 0)) sX)).team 0).bind fun m => tget? m.tbs 2) = some { pend := 32, phase := true } ∧
    (((nxt (exec (.qpush (rr 2 66 0)) sX)).team 0).map fun m => tget m.q 2 []) = some [clean 1, clean 16] := by decide

/-- A counter that has reached its target of 0 and one that has not reached 16 + 2^32. -/
theorem test_counter_hypotheses :
    gX.parks = [] ∧ (gX.thread 0).live = true ∧ (sX.pair iX 0 140).poison = false ∧ (sX.pair iX 0 66).poison = false ∧
    ∃ s, sX.ccRead 0 (laneOf 0 0) 0 0 = (.value 0, s) := ⟨by decide, by decide, by decide, by decide, _, rfl⟩

/-- Lines at virtual 0 to 15, and at the end of their page. -/
theorem test_cache_hypotheses :
    (sX.pair iX 0 140).val.toNat = 0 ∧ (sX.src iX kInt 0 66).poison = false ∧ (sX.src iX kInt 0 66).val.toNat = 16 ∧
    (∃ k r s, sX.xlate 0 (some (laneOf 0 0)) 0 0 .read = (.ok k r, s)) ∧ ∃ k r s, sX.xlate 0 (some (laneOf 0 0)) 0 0 .drop = (.ok k r, s) :=
  ⟨by decide, by decide, by decide, ⟨_, _, _, rfl⟩, ⟨_, _, _, rfl⟩⟩

/-- 05 R94 and R91: a queue with an entry, read as a source; and the codes of a group's own sources. -/
theorem test_source_codes :
    (sX.operand iX kInt 0 134).1 = clean 1 ∧ ((sX.operand iX kInt 0 134).2.team 0).map (fun m => tget m.q 2 []) = some [] ∧
    (sX.team 0).isSome = true ∧ tget? mX.groups 0 = some gX ∧ sX.src iX kInt 0 66 = clean 16 ∧ sX.src iX kInt 0 140 = clean 0 ∧
    sX.src iX kInt 7 141 = clean 7 ∧ sX.src iX kInt 0 255 = clean 31 := by decide

/-- Two threads of a team that branch and call, in a block of 128 registers; the second has a link record of a call, or of a trap. -/
def gK (trap : Bool) : Group :=
  let r : PDword := { val := BitVec.ofNat 64 (0x1234 + 2 ^ 56 + if trap then 2 ^ 60 else 0), poison := false }
  let x : PDword := { val := 0x2000, poison := false }
  { ba := 128, linkBase := 0x2000, linkSize := 0x10000, th := (List.range 2).map fun n =>
      (n, { th [] with v := [(12, clean 0x4000)], p := 2, wb := 8, cd := 1, links := [(1, r)], xpc := x }) }
def iK : Issue := cl .K [0, 1]
def sK (trap : Bool) : State := st (tm (gK trap)) iK
theorem issuing_k (trap : Bool) : Issuing (sK trap) iK (tm (gK trap)) (gK trap) := ⟨rfl, rfl, rfl, by cases trap <;> decide, by decide⟩

/-- A branch back to address 0, a branch and a call by the pair v4, a call that keeps its window and one that leaves it. -/
theorem test_transfer_hypotheses :
    (gK false).limbs = none ∧ (∀ l ∈ iK.live, (cond (bb 1 2 0x10) (gK false) l).poison = false) ∧
    Target (relTo (bx (bb 1 0 0xFC00) (ex 0 0x1FFFF)) iK) ∧ Target (relTo (bb 1 2 0x10) iK) ∧
    (∀ l ∈ iK.live, ((sK false).pair iK l 4).poison = false ∧ Target ((sK false).pair iK l 4).val.toNat) ∧
    (∀ l ∈ iK.live, CallStays (gK false) ((gK false).thread l) 16) ∧ ¬ CallStays (gK false) ((gK false).thread 0) 200 := by
  unfold Target CallStays; decide

/-- Returns: the record of a call and the record of a trap. -/
theorem test_return_hypotheses :
    (∀ l ∈ iK.live, ((gK false).thread l).rb ≤ ((gK false).thread l).wb - 8) ∧
    ((gK false).thread 1).links = [(1, { val := 0x0100000000001234, poison := false })] ∧
    ((gK true).thread 1).links = [(1, { val := 0x1100000000001234, poison := false })] ∧
    ((gK true).thread 1).xpc = { val := 0x2000, poison := false } ∧
    ((nxt (exec (.ret (rr 0 0 0)) (sK false))).thread 0 0 1).map (fun x => (x.pc, x.wb, x.cd)) = some (0x1234, 0, 0) ∧
    ((nxt (exec (.tret (rr 0 0 0)) (sK true))).thread 0 0 1).map (fun x => (x.pc, x.wb, x.cd)) = some (0x2000, 0, 0) := by decide

/-- A call under p1 pushes a record and moves the window up by 16 registers, from the clause at 0x1000 with its one word. -/
theorem test_calls :
    ((nxt (exec (.call (bb 1 2 0x10)) (sK false))).thread 0 0 1).map (fun x => (x.pc, x.wb, x.cd, tget? x.links 2)) =
      some (0x1040, 24, 2, some { val := 0x0200000000001008, poison := false }) ∧
    ((nxt (exec (.braLead (bb 1 0 0x10)) (sK false))).thread 0 0 1).map (·.pc) = some 0x1040 ∧
    ((nxt (exec (.brar (bb 1 0 0x400)) (sK false))).thread 0 0 1).map (·.pc) = some 0x4000 ∧
    ((nxt (exec (.exit (rr 0 0 0)) (sK false))).thread 0 0 1).map (·.st) = some .exited := by decide

/-- A trap that is taken: entry and window; and, with no entry or in handler mode, one that kills. -/
theorem test_trap_hypotheses :
    (tm (gK false)).hentry ≠ 0 ∧ CallStays (gK false) ((gK false).thread 1) (tm (gK false)).hframe ∧
    (∀ i ∈ (sK false).issues, tget? i.after 1 = none) ∧ ((gK false).thread 1).h = false ∧
    (let x : Trap := { xpc := 0x1004, cause := 45, widx := 3, xdet := clean 7 }
     (((sK false).trapOne 0 0 1 x).thread 0 0 1).map (fun x => (x.pc, x.xcause, x.wb, x.h, tget? x.links 2)) =
       some (0x2000, 0x62D, 16, true, some { val := 0x1100000000001004, poison := false }) ∧
     ((({ sK false with teams := [(0, { tm (gK false) with hentry := 0 })] } : State).trapOne 0 0 1 x).thread 0 0 1).map (·.st) =
       some .exited) := by
  unfold CallStays; decide

/-- Special registers: LAUNCHID, WINDOW's own number 5, the pair XPC, and a write of 1 to each bit of FSTAT. -/
theorem test_special_registers :
    Issuing (st (tm two) (cl .S [0, 1])) (cl .S [0, 1]) (tm two) two ∧ Fits .L (rr 62 16 0) two 2 ∧
    takers (cl .S [1]) two none = [1] ∧
    (let s := st { tm (gK true) with launchid := 9 } { iK with header := hd .S }
     ((nxt (exec (.rdsr (rr 4 7 0)) s)).getR 0 0 1 4, (nxt (exec (.rdsr (rr 4 16 0)) s)).getR 0 0 1 4,
       (nxt (exec (.rdsr (rr 4 16 0)) s)).getR 0 0 1 5) = (clean 9, clean 0x2000, clean 0)) ∧
    (let g : Group := { two with th := two.th.map fun x => (x.1, { x.2 with fstat := 0x3F }) }
     ((nxt (exec (.wrsr (rr 4 1 0)) (st (tm g) (cl .S [0])))).thread 0 0 0).map (·.fstat) = some 0x3A) :=
  ⟨⟨rfl, rfl, rfl, by decide, by decide⟩, .inl (by decide), by decide, by decide, by decide⟩

/-- A tag of 16 bits; a trap of cause 45 noted for after the clause; the regang bound of 16 × 5 ticks. -/
theorem test_tags_and_traps :
    ((nxt (exec (.smpl (rx (rr 0 1 0) (ex 0 1))) (run .S [[0x12345]]))).thread 0 0 0).map (fun x => (x.smpltag, x.smplNext)) =
      some (0x2345, true) ∧
    (nxt (exec (.trap (rr 0 1 0)) (run .K [[7]]))).issues.map (fun i => tget? i.after 0) = [some (45, 0, clean 7, 0)] ∧
    (nxt (exec (.brk (rr 0 1 0)) (run .S [[7]]))).issues.map (fun i => tget? i.after 0) = [some (46, 0, clean 7, 0)] ∧
    (nxt (exec (.regang (rr 0 1 0)) (run .K [[5]]))).issues.map (fun i => tget? i.regang 0) = [some 1080] := by decide

/-! The tile store and the matrix step. -/

/-- Two threads of a team with a range of nine granules that holds 0x8877665544332211 at 0; s2 to s11 hold operands: a record of 64
columns and 64 rows in s8 and s9, and one of eight columns in s10 and s11. -/
def gT : Group :=
  { gr [[8, 0x11223344, 0x2000, 0, 5], [8, 1, 2]] with
    s := [(2, clean 16), (3, clean 1), (4, clean 4095), (8, clean 0x007F3F36), (9, clean 0x1000), (10, clean 0x00073F03), (11, clean 0)] }
def rangeT (d : Option Dword) : Range := { gran := 9, bytes := msets [] 0 (leBytes 8 0x8877665544332211), record := d }
def mT (d : Option Dword) : Team := { tm gT with ranges := [(1, rangeT d)] }
def iT (l : List Nat) : Issue := cl .T l
def sT (d : Option Dword) (l : List Nat) : State := st (mT d) (iT l)
def recA : Dword := 0x1000007F3F36
def recB : Dword := 0x00073F03
theorem takes_t (d : Option Dword) : Takes (sT d [0, 1]) (iT [0, 1]) (mT d) gT none 0 [1] :=
  ⟨⟨rfl, rfl, rfl, by decide, by decide⟩, trivial, rfl⟩
theorem takes_t1 : Takes (sT none [0]) (iT [0]) (mT none) gT none 0 [] := ⟨⟨rfl, rfl, rfl, by decide, by decide⟩, trivial, rfl⟩

/-- A reservation of 16 granules, and of all but those taken; a release; a record that its range holds. -/
theorem test_range_hypotheses :
    (let s := sT none [0, 1]
     (s.core 0).rsv = [] ∧ (s.src (iT [0, 1]) kInt 0 66).val = 16 ∧ (tget (mT none).ranges 5 {}).gran = 0 ∧ s.freeGranules 0 = 4087 ∧
       (∃ t ∈ [0, 1], (gT.thread t).st ≠ .exited) ∧ (tget (mT none).ranges 1 {}).gran ≠ 0 ∧ s.rangeBusy 0 1 = false ∧
       (s.pair (iT [0, 1]) 0 72).poison = false ∧ (s.pair (iT [0, 1]) 0 72).val = recA ∧ recordRefused recA 9 = false) := by decide
theorem test_ranges :
    ((nxt (exec (.tsRsv (rr 5 66 0)) (sT none [0, 1]))).range 0 5).gran = 16 ∧
    ((nxt (exec (.tsRel (rr 1 0 0)) (sT none [0, 1]))).range 0 1).gran = 0 ∧
    ((nxt (exec (.tsRec (rr 1 72 0)) (sT none [0, 1]))).range 0 1).record = some recA := by decide

/-- Words at 8, at the last word of the range, and past it. -/
theorem test_tile_word_hypotheses :
    (let s := sT none [0]
     let off (c : Nat) : Nat := (s.src (iT [0]) kInt 0 c).val.toNat
     off 1 % 4 = 0 ∧ off 1 < 512 * 9 ∧ 4604 % 4 = 0 ∧ 4604 < 512 * 9 ∧ off 3 = 0x2000 ∧ (s.src (iT [0]) kInt 0 1).poison = false) ∧
    Fits .L (rr 20 1 1) gT 1 ∧
    mgets ((nxt (exec (.tsWr (rr 1 1 2)) (sT none [0]))).range 0 1).bytes 6 8 = [0x77, 0x88, 0x44, 0x33, 0x22, 0x11, 0, 0] ∧
    (nxt (exec (.tsRd (rr 20 4 1)) (sT none [0]))).getR 0 0 0 20 = clean 0x44332211 ∧
    (nxt (exec (.tsRd (rr 20 3 1)) (sT none [0]))).getR 0 0 0 20 = poisoned ∧
    (nxt (exec (.tsRd (rr 20 5 1)) (sT none [0]))).getR 0 0 0 20 = poisoned :=
  ⟨by decide, .inl (by decide), by decide, by decide, by decide, by decide⟩

/-- The range has a record: 64 by 8 in format 3, which a fragment of a quarter holds in registers v16 and on. -/
theorem test_record_hypotheses :
    (tget (mT (some recB)).ranges 1 {}).record = some recB ∧ (∀ e ∈ gT.th, e.2.live = true → e.1 ∈ (iT [0, 1]).cand) ∧
    (tileRec recB).rows = 64 ∧ (tileRec recB).cols ∈ [8, 32, 64, 128] ∧ (tileRec recB).cols ≤ fmtKs (tileRec recB).fmt ∧
    16 + fragRegs (tileRec recB).fmt (tileRec recB).cols (tileRec recB).sc ≤ min 64 gT.ba ∧
    ((sT (some recB) [0, 1]).src (iT [0, 1]) kInt 0 67).poison = false := by decide
theorem test_gang : ((nxt (exec (.gangSet (rr 0 67 0)) (sT none [0, 1]))).group 0 0).map (fun g => (g.gang, g.gseq)) = some (1, 0) := by decide

/-- A gang of two groups, each with its fragments, and ranges for the scales of neither: 64 columns of format 3. -/
def gG (q : Nat) : Group :=
  { gr [[8, 1], [2, 2]] with
    gang := 0x10010
    fs := [(0, { st := .fresh, base := 16, fmt := 3, ks := 64, quarter := q }), (1, { st := .fresh, base := 24, fmt := 3, ks := 64, quarter := q + 2 })] }
def rangeG : Range := { gran := 8, record := some 0x003F3F03 }
def mG : Team := { tm (gG 0) with groups := [(0, gG 0), (1, gG 1)], ranges := [(2, rangeG), (3, rangeG)] }
def dep (g : Nat) (b : Bool) : Deposit :=
  { tk := 0, g := g, seq := 0, z := true, vb := 16, step := 0, k := 2, cand := [0, 1], pc := 0x1000, widx := 1, ready := true, started := b }
def sG (l : List Deposit) : State := { st mG (iT [0, 1]) with nextId := 5, cores := [(0, { latch := l })] }

/-- A word whose gang is not complete, one whose step has started, and a gang that is complete. -/
theorem test_rendezvous_hypotheses :
    Takes (sG []) (iT [0, 1]) mG (gG 0) none 0 [1] ∧ ((sG []).core 0).latch = [] ∧
    (∃ n ∈ mG.gangOf 0, n ≠ 0 ∧ mG.gone n = false ∧ (sG []).deposit 0 n 0 = none) ∧
    (sG [dep 0 true, dep 1 true]).deposit 0 0 0 = some (dep 0 true) ∧ (sG [dep 0 false, dep 1 false]).startable 0 0 0 = true ∧
    (∃ x ∈ mG.gangOf 0, ∃ d, (sG [{ dep 0 false with ready := false }]).deposit 0 x 0 = some d ∧ d.ready = false ∧ mG.gone x = false) ∧
    (mG.gangOf 0).Nodup ∧ ((sG [dep 0 false, dep 1 false]).src (iT [0, 1]) kInt 0 224).poison = false :=
  ⟨⟨⟨rfl, rfl, rfl, by decide, by decide⟩, trivial, rfl⟩, by decide, by decide, by decide, by decide, ⟨0, by decide, _, rfl, rfl, by decide⟩,
   by decide, by decide⟩
theorem test_rendezvous :
    ((nxt (exec (.mmaZ (rr 16 224 2)) (sG []))).core 0).latch.map (fun d => (d.g, d.z, d.vb, d.k, d.ready)) = [(0, true, 16, 2, true)] ∧
    ((nxt (exec (.mma (rr 16 224 2)) (sG [dep 0 true, dep 1 true]))).group 0 0).map (·.gseq) = some 1 := by decide

/-- A staging accumulator at the end of its 64 elements, and a tile at 0x4000 whose four pages are at hand. -/
def gC : Group :=
  { gr [[8, 1]] with
    s := [(8, clean 0x4000), (9, clean 0), (10, clean 3)]
    staging := { kpos := 64, acc := [(3, clean 0x3F800000)], run := some { fa := 3, la := 0, fb := 3, lb := 0 } } }
def sC : State :=
  { st (tm gC) (iT [0]) with nextId := 9, cores := [(0, { tlb := [{ ctx := 0, level := 1, page := 0, pte := 0x4000001D }] })] }
theorem test_commit_hypotheses :
    MemReady sC (iT [0]) (tm gC) gC none 0 ∧ (sC.pair (iT [0]) 0 72).poison = false ∧ (sC.pair (iT [0]) 0 72).val.toNat < 2 ^ 56 ∧
    gC.staging.kpos % 32 = 0 ∧ (sC.src (iT [0]) kInt 0 74).poison = false ∧
    ∀ k, ∃ c s, sC.classifyTile { src := 0, kind := k, tk := 0, g := 0, lanes := [0], ctx := 0 } 0x4000 = (0, 0, c, s) :=
  ⟨⟨⟨rfl, rfl, rfl, by decide, by decide⟩, trivial, rfl, by decide, by decide, by decide, rfl, by decide⟩, by decide, by decide, by decide,
   by decide, fun k => by simp only [State.classifyTile]; exact ⟨_, _, rfl⟩⟩
theorem test_commits :
    ((nxt (exec (.commitOrd (rr 0 72 74)) sC)).accs.map fun a => (a.1, a.2.va, a.2.pages.length)) = [(10, 0x4000, 4)] ∧
    ((nxt (exec (.commit (rr 0 72 0)) sC)).group 0 0).map (·.staging) = some {} ∧
    ((nxt (exec (.accClose (rx (rr 0 72 74) (ex 0 5))) sC)).accs.map fun a => a.2.kind) = [.close 3 5] := by decide

/-! Long integers, engines and debugging. -/

/-- 32 threads that hold their numbers in v1; integer 0 of four limbs has CF, integer 1 has 5 in CW. -/
def gL (l : Option Nat) : Group :=
  { gr ((List.range 32).map fun n => [BitVec.ofNat 32 n, 1, 0, 0x4000, 0]) with
    limbs := l, cf := [(0, { val := true, poison := false })], cw := [(1, clean 5)] }
def iL (l : List Nat) : Issue := cl .C l
def sL (l : Option Nat) (live : List Nat) : State :=
  { st (tm (gL l)) (iL live) with
    nextId := 9, cores := [(0, { lastPage := (List.range 32).map fun n => (n, { ctx := 0, level := 0, page := 4, pte := 0x4000001D }) })] }
theorem test_limb_hypotheses : Bound (sL (some 4) [0, 1, 2, 3, 4, 5, 6, 7]) (iL [0, 1, 2, 3, 4, 5, 6, 7]) (tm (gL (some 4))) (gL (some 4)) none 4 [0, 1] :=
  ⟨⟨rfl, rfl, rfl, by decide, by decide⟩, trivial, rfl, by decide, by decide, by decide, by decide⟩
/-- 17 R288: 3·2^96 + 2·2^64 + 2^32 less 2^96 + 2^64 + 2^32 + 1 in integer 0; the borrow with CF; a negation. -/
theorem test_limb_arithmetic :
    (let d (x : Instr) : List Word := (List.range 4).map fun k => ((nxt (exec x (sL (some 4) [0, 1, 2, 3]))).getR 0 0 k 20).val
     (d (.ladd (rr 20 1 2)), d (.lsub (rr 20 1 2)), d (.lsubb (rr 20 1 2)), d (.lneg (rr 20 1 0)))) =
      ([1, 2, 3, 4], [0xFFFFFFFF, 0xFFFFFFFF, 0, 2], [0xFFFFFFFE, 0xFFFFFFFF, 0, 2], [0, 0xFFFFFFFF, 0xFFFFFFFD, 0xFFFFFFFC]) ∧
    (((nxt (exec (.lsub (rr 20 1 2)) (sL (some 4) [0, 1, 2, 3]))).group 0 0).map fun g => (carry g 0).val) = some false := by decide
/-- All 32 threads, bound and not; a mask of the integers whose CF is 1. -/
theorem test_binding_hypotheses :
    takers (iL (List.range 32)) (gL none) none = List.range 32 ∧ (∀ t, t < 32 → t ∈ (iL (List.range 32)).cand ∧ ((gL none).thread t).live = true) ∧
    (∀ e ∈ (gL (some 4)).th, e.2.live = true → e.1 ∈ List.range 32) ∧ Fits .L (rr 20 0 0) (gL (some 4)) 1 :=
  ⟨by decide, by decide, by decide, .inl (by decide)⟩
theorem test_binding :
    ((nxt (exec (.lbind (rx (rr 0 0 0) (ex 0 2))) (sL none (List.range 32)))).group 0 0).map (fun g => (g.limbs, g.cf)) = some (some 4, []) ∧
    ((nxt (exec (.lunbind (rr 0 0 0)) (sL (some 4) (List.range 32)))).group 0 0).map (fun g => (g.limbs, g.cw)) = some (none, []) ∧
    (nxt (exec (.lovf (rr 20 0 0)) (sL (some 4) [0, 1, 2, 3]))).getR 0 0 2 20 = clean 1 ∧
    ((nxt (exec (.lcmp (rx (rr 2 1 2) (ex 0 4))) (sL (some 4) [0, 1, 2, 3]))).thread 0 0 3).map (·.p.getLsbD 2) = some true := by decide

/-- Integer 1 of four limbs, whose lanes have the page at 0x4000 at hand: 0x400C and the three words after it. -/
theorem test_limb_access_hypotheses :
    Bound (sL (some 4) [4, 5, 6, 7]) (iL [4, 5, 6, 7]) (tm (gL (some 4))) (gL (some 4)) none 4 [1] ∧
    (∀ k, k < 4 → AtHand (sL (some 4) [4, 5, 6, 7]) 0 (laneOf 0 (4 + k)) 0 (0x400C + 4 * k) .read (0x4000000C + 4 * k)) ∧
    (∀ k, k < 4 → AtHand (sL (some 4) [4, 5, 6, 7]) 0 (laneOf 0 (4 + k)) 0 (0x400C + 4 * k) .write (0x4000000C + 4 * k)) ∧
    (let s := sL (some 4) [4, 5, 6, 7]
     s.accs = [] ∧ (s.core 0).wpts = [] ∧ (s.core 0).smplctl = 0 ∧ (s.pair (iL [4, 5, 6, 7]) 4 4).val = 0x4000 ∧
       ∀ t ∈ lanesOf 4 1, (s.src (iL [4, 5, 6, 7]) kInt t 1).poison = false) :=
  ⟨⟨⟨rfl, rfl, rfl, by decide, by decide⟩, trivial, rfl, by decide, by decide, by decide, by decide⟩,
   fun k h => ⟨{ ctx := 0, level := 0, page := 4, pte := 0x4000001D }, by revert k; decide, by revert k; decide, by decide, by revert k; decide⟩,
   fun k h => ⟨{ ctx := 0, level := 0, page := 4, pte := 0x4000001D }, by revert k; decide, by revert k; decide, by decide, by revert k; decide⟩,
   by decide⟩
theorem test_limb_accesses :
    ((nxt (exec (.lst (rx (rr 0 4 1) (ex 0 96))) (sL (some 4) [4, 5, 6, 7]))).accs.map fun a => (a.1, a.2.key, a.2.lanes, a.2.data)) =
      (List.range 4).map fun k => (10 + k, 0x4000000C + 4 * k, [4 + k], leBytes 4 (4 + k)) := by decide

/-- Two threads with addresses in s registers, a transaction barrier, and a descriptor in shared memory at 0x1040. -/
def gE : Group :=
  { gr [[8, 1], [2, 2]] with s := [(2, clean 0x1040), (3, clean 3), (4, clean 0x2000), (5, clean 0), (6, clean 0x30), (7, clean 0)] }
def mE : Team :=
  { tm gE with tbs := [(1, { pend := 3, phase := true })], sh := msets [] 0x1074 [0x30], shSize := 0x2000, ranges := [(2, { gran := 4 })] }
def sE : State :=
  { st mE (cl .E [0, 1]) with
    nextId := 9, cores := [(0, { lastPage := [(0, { ctx := 0, level := 0, page := 2, pte := 0x4000001D })] })] }
theorem test_engine_hypotheses :
    Takes sE (cl .E [0, 1]) mE gE none 0 [1] ∧ (∀ e ∈ gE.th, e.2.live = true → e.1 ∈ (cl .E [0, 1]).cand) ∧
    (let i := cl .E [0, 1]
     (sE.src i kInt 0 66).val.toNat + 2 ^ 32 * (sE.src i kInt 0 69).val.toNat = 0x1040 ∧ (sE.pair i 0 68).val = 0x2000 ∧
       (sE.pair i 0 70).poison = false ∧ (sE.src i kInt 0 67).val.toNat ≤ 7 ∧ (sE.src i kInt 0 70).val.toNat ≤ 255 ∧ sE.tbNamed 0 1 = false ∧
       1 < mE.tbn ∧ (mget mE.sh (0x1040 + 52)).toNat / 16 % 4 = 3 ∧ 0x1040 + 64 ≤ mE.shSize ∧ (sE.range 0 2).gran = 4) ∧
    ∃ k r s, sE.xlate 0 (some (laneOf 0 0)) 0 0x2000 .write = (.ok k r, s) :=
  ⟨⟨⟨rfl, rfl, rfl, by decide, by decide⟩, trivial, rfl⟩, by decide, by decide, _, _, _, rfl⟩
theorem test_commands :
    ((nxt (exec (.cardEnq (fx (ee 0 0 66 69) (ex 0 16))) sE)).accs.map fun a => (a.1, a.2.kind)) = [(10, .command (.enq 16 0x1040 false))] ∧
    ((nxt (exec (.collRearm (ee 0 0 68 70)) sE)).accs.map fun a => a.2.kind) = [.command (.collRearm 0x2000 0x30)] ∧
    ((nxt (exec (.wgtSet (ee 0 0 67 70)) sE)).accs.map fun a => a.2.kind) = [.command (.weight 3 0x30)] ∧
    ((nxt (exec (.cntInit (ee 0 0 68 70)) sE)).accs.map fun a => (a.2.key, a.2.data)) = [(0x40000000, leBytes 8 0x30)] ∧
    ((nxt (exec (.tbInit (ee 1 0 66 0)) sE)).team 0).bind (fun m => tget? m.tbs 1) = some { pend := 0x1040 } := by decide
theorem test_copies :
    ((nxt (exec (.copyts (ee 1 1 66 2)) sE)).copies.map fun c => (c.1, c.2.slices.map fun x => (x.2.offset, x.2.handle, x.2.tb))) =
      [(11, [(0x1040, some 2, 1)])] ∧ ((nxt (exec (.copy (ee 1 1 66 0)) sE)).group 0 0).map (·.copyNum) = some 1 := by decide

/-- Operands of a watchpoint that is admitted (0x24 over 0x1040), of one with space 3 and of one out of line (0x1042). -/
def gW : Group :=
  { gr [[8, 1], [2, 2]] with s := [(2, clean 0x1040), (3, clean 0), (4, clean 0x24), (5, clean 3), (6, clean 0x1042), (7, clean 0)] }
def sW : State :=
  { st (tm gW) (cl .S [0, 1]) with
    cores := [(0, { wpts := [(1, { addr := 4, ctl := 4, ctx := 0 })], cmps := [(1, { addr := 4, filter := 0, ctx := 0 })] })] }
theorem test_watch_hypotheses :
    Takes sW (cl .S [0, 1]) (tm gW) gW none 0 [1] ∧ (sW.pair (cl .S [0, 1]) 0 66).val = 0x1040 ∧ Target 0x1040 ∧ ¬ Target 0x1042 :=
  ⟨⟨⟨rfl, rfl, rfl, by decide, by decide⟩, trivial, rfl⟩, by decide, by unfold Target; decide, by unfold Target; decide⟩
theorem test_watch :
    ((nxt (exec (.wptArm (rr 2 66 68)) sW)).core 0).wpts.map (fun x => (x.1, x.2.addr)) = [(1, 4), (2, 0x1040)] ∧
    ((nxt (exec (.wptArm (rr 2 66 69)) sW)).thread 0 0 1).map (·.derr) = some true ∧
    ((nxt (exec (.pcmpSet (rr 2 70 68)) sW)).core 0).cmps.length = 1 ∧ ((nxt (exec (.pcmpSet (rr 2 66 68)) sW)).core 0).cmps.length = 2 ∧
    ((nxt (exec (.wptClr (rr 1 0 0)) sW)).core 0).wpts.length = 0 ∧ ((nxt (exec (.pcmpClr (rr 1 0 0)) sW)).core 0).cmps.length = 0 := by decide

/-- Two groups of a thread that runs a clause, one Halted, one Exited, one in a single step; masks of both in s2 and s3. -/
def gH : Group :=
  { gr [[1]] with
    th := [(0, th [1, 3]), (1, { th [1] with halted := true }), (2, { th [] with st := .exited }), (3, th [])], s := [(2, clean 3), (3, clean 0xF)] }
def mH : Team := { tm gH with groups := [(0, gH), (1, gH)] }
def sH : State := { st mH (cl .S [0]) with nextId := 4 }
theorem test_halt_hypotheses :
    Takes sH (cl .S [0]) mH gH none 0 [] ∧ (∀ x ∈ mH.groups, x.2.limbs = none ∧ tsorted x.2.th = true ∧ ∀ e ∈ x.2.th, e.1 < 32 ∧ e.2.waiting = false) ∧
    (sH.src (cl .S [0]) kInt 0 66).poison = false ∧ (sH.src (cl .S [0]) kInt 0 67).poison = false :=
  ⟨⟨⟨rfl, rfl, rfl, by decide, by decide⟩, trivial, rfl⟩, by decide, by decide, by decide⟩
theorem test_halts :
    (let f (x : Instr) (n : Nat) := (List.range 4).map fun l => ((nxt (exec x sH)).thread 0 n l).map fun t => [t.halted, t.haltPend, t.step]
     f (.halt (rr 0 66 67)) 0 = [some [false, true, false], some [true, false, false], some [false, false, false], some [true, false, false]] ∧
     f (.resume (rr 0 66 67)) 1 = List.replicate 4 (some [false, false, false]) ∧
     f (.sstep (rr 0 66 67)) 1 =
       [some [false, false, false], some [false, false, true], some [false, false, false], some [false, false, false]]) ∧
    (((nxt (exec (.mboxWr (rr 0 66 0)) sH)).core 0).mboxOut.map fun (r : MRec) => (r.kind, r.value, r.mask)) = [(1, 3, 1)] := by decide

/-! Accesses under way, accumulators, and the scheduler. -/

def gS : Group := { gr [[8, 1]] with gwctmax := 5 }
def sS (l : Tbl Access) : State :=
  { st (tm gS) (cl .M [0]) with accs := l, nextId := 9, mem := msets [] 0x40000010 (leBytes 8 0x1122334455667788), issues := [] }
/-- An access of four bytes at 0x40000010 to v20 of thread 0, just issued. -/
def ld : Access := { src := 0, kind := .load, tk := 0, g := 0, lanes := [0], va := 0x10, key := 0x40000010, width := 4, dst := some 20, dt := 900 }
def stA (x : Stage) : Access := { ld with kind := .store, data := [1, 2, 3, 4], dst := none, entered := true, stage := x }
def atA (op : AtomOp) (x : Stage) : Access := { ld with kind := .atom op, data := [1, 0, 0, 0], value := [7, 0, 0, 0], entered := true, stage := x }
def fill : Access := { ld with stage := .back 990, fill := (List.range 32).map fun n => clean (BitVec.ofNat 32 (100 + n)), le := 1500 }
def ldN : Access := { ld with stage := .net 990 3 }
def far : Access := { ld with key := remoteBase 3 + 0x10, dt := 0, stage := .net 5000000 3 }
def sFar : State := { sS [(3, far)] with dt := 2 ^ 20 }
theorem sole (s : State) (a : Access) (h : s.accs = [(3, a)]) : Sole s 3 a :=
  ⟨by rw [h]; rfl, by rw [h]; intro x y _; rw [List.mem_singleton.1 y]⟩
theorem waits_s (s : State) (a : Access) (h : s.group 0 0 = some gS) (k : (a.tk, a.g, a.dst, a.lanes, a.width, a.wb) = (0, 0, some 20, [0], 4, 0)) :
    Waits s a 0 20 := by
  simp only [Prod.mk.injEq] at k
  obtain ⟨h1, h2, h3, h4, h5, h6⟩ := k
  exact ⟨h3, h4, gS, th [8, 1], by rw [h1, h2, h], rfl, by decide, by rw [h6]; rfl, .inl (by rw [h5]; decide)⟩
/-- Each access stands where its step finds it. -/
theorem test_access_hypotheses :
    (sS [(3, stA .core)]).leaveDue 3 (stA .core) = true ∧ (sS [(3, ldN)]).readDue 3 ldN = true ∧ Admitted (sS [(3, ldN)]) ldN ∧
    (sS [(3, stA (.net 990 3))]).writeDue 3 (stA (.net 990 3)) = true ∧ (sS [(3, atA .add (.net 990 3))]).atomicDue 3 (atA .add (.net 990 3)) = true ∧
    (sS []).anyMarked 0x40000010 4 = false ∧ (sS []).ackDue (stA (.back 990)) = true ∧ (sS [(3, fill)]).fillDue 3 fill = true ∧
    sFar.remoteLate far = true ∧ Sole sFar 3 far ∧ Waits sFar far 0 20 ∧ Waits (sS [(3, fill)]) fill 0 20 ∧
    Waits (sS [(3, atA .add (.back 990))]) (atA .add (.back 990)) 0 20 ∧ Sole (sS [(3, stA .core)]) 3 (stA .core) ∧
    fill.fill[fill.key % 128 / 4]? = some (clean 104) :=
  ⟨by decide, by decide, ⟨.inl (by decide), by decide⟩, by decide, by decide, by decide, by decide, by decide, by decide, sole _ _ rfl,
   waits_s _ _ rfl rfl, waits_s _ _ rfl rfl, waits_s _ _ rfl rfl, sole _ _ rfl, by decide⟩
theorem test_accesses :
    mgets (nxt (exec (.homeSliceWrite 3) (sS [(3, stA (.net 990 3))]))).mem 0x40000010 5 = [1, 2, 3, 4, 0x44] ∧
    mgets (nxt (exec (.homeSliceAtomic 3) (sS [(3, atA .add (.net 990 3))]))).mem 0x40000010 4 = [0x89, 0x77, 0x66, 0x55] ∧
    ((tget? (nxt (exec (.homeSliceRead 3) (sS [(3, ldN)]))).accs 3).map fun (x : Access) => x.value) = some [0x88, 0x77, 0x66, 0x55] ∧
    (nxt (exec (.acknowledgement 3) (sS [(3, atA .add (.back 990))]))).getR 0 0 0 20 = clean 7 ∧
    (nxt (exec (.fillArrival 3) (sS [(3, fill)]))).getR 0 0 0 20 = clean 104 ∧
    (nxt (exec (.remoteTimeout 3) sFar)).getR 0 0 0 20 = poisoned ∧
    ((nxt (exec (.acknowledgement 3) (sS [(3, { stA (.back 990) with gwct := 777 })]))).group 0 0).map (fun g => decide (777 ≤ g.gwctmax)) = some true ∧
    ((tget? (nxt (exec (.strikeQuarantineExpiry 3) (sS [(3, stA .core)]))).accs 3).map fun (x : Access) => decide (x.stage = .core)) = some false := by
  decide

/-- Core 7 owns the word that a store of core 0 has written: a revocation to obey, and one to confirm. -/
def rv (done : Bool) : Revoke := { core := 7, line := 0x800000, words := [4], arrive := 990, applied := done }
def sRv (done : Bool) : State :=
  { sS [(3, { stA .performed with revs := [rv done] })] with
    cores := [(7, { l1 := [(0x800000, { le := 1200, words := List.replicate 32 (clean 0), valid := List.range 32, owned := [4, 5] })] })] }
theorem test_revocations :
    ((sRv false).accs.map fun x => x.2.revs.find? fun r => r.core == 7 && (sRv false).revokeDue x.2 r) = [some (rv false)] ∧
    ((sRv true).accs.map fun x => x.2.revs.find? fun r => r.core == 7 && (sRv true).confirmDue x.2 r) = [some (rv true)] ∧
    ((tget? ((nxt (exec (.ownershipRevocation 3 7) (sRv false))).core 7).l1 0x800000).map fun x => x.owned) = some [5] ∧
    ((tget? (nxt (exec (.revocationConfirmation 3 7) (sRv true))).accs 3).map fun (x : Access) => x.revs) = some [] := by decide

/-- A line whose lease is over; an operation that is complete in slot 3; a line to evict; a fence with nothing left before it. -/
def sQuiet : State :=
  { st (tm { gS with ws := [(3, 2)], vfence := true }) (cl .M [0]) with
    issues := []
    ops := [(6, { tk := 0, g := 0, slot := 3, left := 0 })], lines := [(5, { present := true, dirty := true, maxLE := 7 })]
    cores := [(2, { l1 := [(5, { le := 900, words := [] })] })] }
theorem test_quiet_steps :
    ((tget? (sQuiet.core 2).l1 5).map fun x => decide (x.le ≤ sQuiet.dt)) = some true ∧ (sQuiet.line 5).acc = none ∧ sQuiet.vfenceDue 0 0 = true ∧
    ((nxt (exec (.leaseExpiry 2 5) sQuiet)).core 2).l1.length = 0 ∧ ((nxt (exec (.lineEviction 5) sQuiet)).line 5).present = false ∧
    ((nxt (exec (.vfenceRelease 0 0) sQuiet)).group 0 0).map (·.vfence) = some false ∧
    ((nxt (exec (.slotCompletion 6) sQuiet)).group 0 0).map (fun g => tget g.ws 3 0) = some 1 := by decide

/-- An open accumulator at 0x40000000 that holds 2.0 as its element 3, a contribution of 1.0 there, and a close. -/
def acc0 (n : Nat) : Accum :=
  { pages := [0x40000000, 0x40001000, 0x40002000, 0x40003000], tile := [(3, clean 0x40000000)], merged := n }
def aC (k : AKind) : Access :=
  { src := 0, kind := k, tk := 0, g := 0, lanes := [0], va := 0, key := 0x40000000, width := 16384, dt := 900, stage := .net 990 3
    pages := (acc0 0).pages }
def give : AKind := .commit { st := { acc := [(3, clean 0x3F800000)], kpos := 64 }, index := none }
def sAc (k : AKind) (n : Nat) : State :=
  { sS [(3, aC k)] with accums := [(0x800000, acc0 n)], lines := (tileLines (acc0 n).pages).map fun l => (l, { acc := some 0x800000 }) }
theorem test_accumulator_hypotheses :
    (sAc give 0).mergeDue 3 (aC give) = true ∧ (acc0 0).close = none ∧ (acc0 0).protocolError none = false ∧
    (sAc (.close 1 3) 1).closeDue 3 (aC (.close 1 3)) = true ∧ (sAc (.close 2 3) 1).closeDue 3 (aC (.close 2 3)) = true ∧
    (∀ i ∈ (acc0 1).indices, i < 1) := by decide
theorem test_accumulators :
    ((tget? (nxt (exec (.commitMerge 3) (sAc give 0))).accums 0x800000).map fun (x : Accum) => (x.merged, tget x.tile 3 (clean 0))) =
      some (1, clean 0x40400000) ∧
    ((tget? (nxt (exec (.closeArrival 3) (sAc (.close 2 3) 1))).accums 0x800000).map fun (x : Accum) => x.close) = some (some (2, 3, 3)) := by
  decide +kernel

/-- Three threads at 0x1000 of which two take a clause of one iadd under p1, and a fourth elsewhere. -/
def gQ : Group :=
  { gr [[8, 1]] with
    th := [(0, { th [8, 1] with p := 2 }), (1, { th [2, 2] with p := 2 }), (2, th [3, 3]), (3, { th [] with pc := 0x2000 })] }
def kc : KCard :=
  { addr := 0x5000, code := 0x8000, gx := 2, gy := 2, gz := 1, hframe := 8, tbn := 3, shu := 2, roles := [(2, 64, 0x8000), (1, 32, 0x9000)]
    hentry := 0x2000 }
def mem1 (l : List Word) : Mem := msets [] 0x40001000 (l.flatMap fun w => leBytes 4 w.toNat)
def sQ : State :=
  { st (tm gQ) (cl .L [0]) with
    issues := [], mem := mem1 [0xF1100100, 0x00030102], nextId := 7
    cores := [(0, { tlb := [{ ctx := 0, level := 0, page := 1, pte := 0x4000101D }], slots := [(0, { st := .running, card := kc })] })]
    input := { tk := 0, addr := 0x7000 } }
def takes12 (x : Option Prep) : Bool := match x with
  | some (.go i l s) => i.header.p == 1 && i.header.pn == false && [0, 1, 2].all (fun n => (s.hazard i l n).isNone) && l.all fun x => !isPrivileged x.2
  | _ => false
theorem test_issue_hypotheses :
    sQ.groupOpen 0 0 = true ∧ gQ.cands.find? (fun c => c.headD 32 == 0) = some [0, 1, 2] ∧ takes12 (sQ.prepare 0 0 [0, 1, 2]) = true ∧
    sQ.granted 0 0 [0, 1, 2] = true ∧ (sQ.core 0).cmps = [] ∧ (∀ n ∈ [0, 1, 2], ((gQ.thread n).predN 1 false).poison = false) := by decide
theorem test_issue : (nxt (exec (.clauseIssue 0 0 0) sQ)).issues.map (fun i => (i.live, i.cand, i.words)) = [([0, 1], [0, 1, 2], [0x00030102])] := by
  decide

/-- A thread whose regang wait is over, one that waits at team barrier 3, whose watchdog is due, and one at a transaction barrier; a group
of threads that are Exited. -/
def gRg (x : TState) : Group := { gQ with th := [(0, { th [8] with st := x }), (1, th [2])] }
def sWd (x : TState) : State :=
  let m : Team :=
    { tm (gRg x) with
      bars := [(3, { a := 1, arrived := [0], e := 2, since := 10 })], wdPeriod := 1000, wdClock := 1010
      groups := [(0, gRg x), (1, { gQ with th := [(0, { th [] with st := .exited })] })] }
  { st m (cl .L [1]) with issues := [] }
theorem test_wait_hypotheses :
    (sWd (.waiting [.bar 3 false] 10)).barLate 0 3 = true ∧ (sWd (.waiting [.tb 1 false] 5)).waitLate 0 0 0 = true ∧
    (sWd (.waiting [.regang 0x1000 990] 800)).groupRetireDue 0 1 = true ∧
    ((nxt (exec (.regangDeadline 0 0 0) (sWd (.waiting [.regang 0x1000 990] 800)))).thread 0 0 0).map (·.st) = some .ready ∧
    ((nxt (exec (.groupRetire 0 1) (sWd .ready))).group 0 1).map (·.retired) = some true ∧
    (([0, 1].map fun k => ((nxt (exec (.teamBarrierTimeout 0 3) (sWd (.waiting [.bar 3 false] 10)))).group 0 k).map fun g => g.parks.map fun p => p.kind)) =
      [some [.watchdog], some []] ∧
    (([0, 1].map fun k => ((nxt (exec (.waitTimeout 0 0 0) (sWd (.waiting [.tb 1 false] 5)))).group 0 k).map fun g => g.parks.map fun p => p.kind)) =
      [some [.watchdog], some []] := by decide

/-- An armed slot whose second team can start, of two groups of role 0 and one of role 1. -/
def sSt : State :=
  { State.reset with
    dt := 2000, readyReg := 0xFFFFFFFF, fwRunning := true, cores := [(0, { slots := [(3, { st := .armed, w1 := 1, next := 1, card := kc, w3 := 5 })] })]
    input := { tk := 3, words := [0x100000000, 1, 0x5000, 5] } }
theorem test_start :
    sSt.startDue 3 = true ∧ sSt.slotLack 3 (sSt.slot 3) = 0 ∧
    (let t := nxt (exec (.teamStart 3 none) sSt)
     (t.team 3).map (fun m => (m.x, m.y, m.z, m.shSize)) = some (0, 1, 0, 8192) ∧
     ((List.range 3).map fun k => (t.thread 3 k 31).map fun x => (x.pc, x.srs)) = [some (0x8000, 32), some (0x8000, 64), some (0x9000, 96)]) := by decide
/-- A kernel card of four teams and one role, at a bound address; and a bind to a slot that is not free. -/
def card1 : List Byte :=
  [1, 0, 0, 0] ++ leBytes 4 77 ++ List.replicate 56 0 ++ leBytes 8 0x8000 ++ leBytes 4 4 ++ leBytes 2 1 ++ leBytes 2 1 ++ [1, 0, 0, 0] ++
    leBytes 2 0 ++ leBytes 2 1 ++ [1, 64, 0, 0] ++ List.replicate 420 0
/-- Its bytes at 0x40005000 that are not 0. -/
def cells1 : Mem :=
  [(0x40005000, 1), (0x40005004, 77), (0x40005041, 128), (0x40005048, 4), (0x4000504C, 1),
   (0x4000504E, 1), (0x40005050, 1), (0x40005056, 1), (0x40005058, 1), (0x40005059, 64)]
def sBd : State :=
  { sSt with
    cores := [], mem := cells1, dieTlb := [(0, [{ ctx := 0, level := 0, page := 5, pte := 0x4000501D }])] }
theorem test_bind :
    (let w (n : Nat) : Dword := sBd.input.words.getD n 0
     (sBd.slot 3).st = .free ∧ sBd.bindBytes 0 (w 0) (w 1) (w 2) = some card1 ∧
       sBd.launchOf (bindCtx (w 0)) (bindCard (w 2)) (bindCount (w 0)) = none) ∧
    (let t := nxt (exec .bindRecordWrite sBd); ((t.slot 3).st, (t.slot 3).card.gx, (t.slot 3).w3) = (.armed, 4, 5)) ∧
    (let t := nxt (exec .bindRecordWrite sSt); ((t.slot 3).st, (t.slot 3).status) = (.armed, 1)) := by decide +kernel

/-- A team that drains, and its record 70 ticks after it is taken; an access of a saved team that is lost. -/
def sDr : State :=
  { sQ with teams := [(0, { tm gQ with drain := true })], dt := 100000
            cores := [(0, { slots := [(0, { st := .draining, drainAt := 10, area := 0x7000, card := kc })] })] }
def sSv : State :=
  { sQ with teams := [], saves := [(7, { team := tm gQ, dt := 100000 })]
            cores := [(0, { slots := [(0, { st := .saving, saved := some 7 })] })] }
def sLo : State :=
  { sQ with accs := [(3, { src := 0, kind := .store, tk := 2 ^ 20 + 4, lanes := [0], stage := .back 5, save := some 4, saveDt := 1 })]
            saves := [(4, { late := [3, 5], dt := 1, written := true })], dt := 2 ^ 24 + 5 }
/-- The same of a team that has been restored and runs. -/
def sLr : State :=
  { sLo with saves := [], teams := [(0, { tm gQ with uid := 8 })]
             accs := [(3, { src := 0, kind := .store, tk := 0, lanes := [0], stage := .back 5, save := some 4, saveDt := 1, who := { uid := 8 } })] }
theorem test_preempt :
    (sQ.team 0).isSome = true ∧ (sQ.slot 0).st = .running ∧ sDr.drained 0 = true ∧ sDr.drainLate 0 = true ∧ sLo.lostDue 4 3 = true ∧
    ((nxt (exec .preemptCommand sQ)).slot 0).area = 0x7000 ∧ ((nxt (exec .killCommand sQ)).thread 0 0 3).map (·.st) = some .exited ∧
    (sSv.slot 0).st = .saving ∧ (sLo.accs.all fun x => x.1 < sLo.nextId) = true ∧
    ((nxt (exec (.saveRecordWritten 0) sSv)).slot 0).st = .free ∧ ((nxt (exec (.lateAccessLost 4 3) sLo)).saves.map fun x => (x.2.lost, x.2.refused, x.2.late)) = [(true, true, [5])] ∧
    sLr.lostDue 4 3 = true ∧ sLr.teamAt 8 = some 0 ∧ ((nxt (exec (.lateAccessLost 4 3) sLr)).thread 0 0 3).map (·.st) = some .exited := by
  decide

/-! Engines, collectives, registers and the world outside. -/

def tm0 : Team := tm (gr [[8, 1]])
/-- An entry that has waited 64 ticks for queue 1, a descriptor at 64 of shared memory, and a copy whose rows are done. -/
def desc1 : List Byte :=
  leBytes 8 0x10000 ++ leBytes 8 0x20004 ++ leBytes 4 8 ++ leBytes 2 2 ++ leBytes 2 1 ++ leBytes 4 64 ++ leBytes 4 0 ++ leBytes 4 0xFFFFFFC0 ++
    leBytes 4 0 ++ leBytes 4 8 ++ leBytes 2 2 ++ leBytes 2 1 ++ leBytes 4 0 ++ [2, 0, 0, 0] ++ leBytes 8 0
def mD : Team := { tm0 with sh := msets [] 64 desc1, qwait := [(1, [(900, 77)])], q := [(1, [clean 5])] }
def xD : CSlice := { g := 1, id := 5, dt := 900, offset := 64, op := some 3 }
def xE : CSlice := { g := 0, id := 5, dt := 900, offset := 64, desc := some (descOf desc1), begun := true, row := 2, clipped := true }
def cE (b : Bool) : Copy := { team := some 0, slices := if b then [(0, xE)] else [(1, xD)], started := b, num := 9 }
def sD (b : Bool) : State :=
  { st mD (cl .L [0]) with copies := [(4, cE b)], ops := [(3, { tk := 0, g := 0, slot := 1, left := 1 })] }
theorem test_copy_steps :
    (sD false).queueRoom 0 1 = true ∧ (sD false).descDue (cE false) xD = true ∧ (sD true).sliceDue (cE true) xE = true ∧ mD.shMarked 64 64 = false ∧
    tsorted mD.groups = true ∧ (gr [[8, 1]]).liveThreads ≠ [] ∧ (descOf desc1).dspace ≠ 3 ∧ (descOf desc1).block = false ∧
    ((nxt (exec (.engineQueuePush 0 1) (sD false))).team 0).map (fun m => tget m.q 1 []) = some [clean 5, clean 77] ∧
    ((nxt (exec (.copyDescriptorRead 4 1) (sD false))).slice 4 1).map
      (fun x => x.desc.map fun d => ([d.src, d.dst, d.nx, d.ny, d.size], [d.ssy, d.dsy])) = some (some ([0x10000, 0x20004, 8, 2, 4], [64, -64])) ∧
    ((nxt (exec (.copySliceComplete 4 0) (sD true))).team 0).map (fun m => (tget m.qwait 1 []).drop 1) = some [(1000, 0x10009)] := by decide

/-- A card at 0x5000 that a queue holds, another at 0x5800, and a graph of both with the edge from 0 to 1 at 0x6040. -/
def graph1 : List Byte := leBytes 2 2 ++ leBytes 2 1 ++ leBytes 4 0 ++ leBytes 8 0x88 ++ leBytes 8 0x5000 ++ leBytes 8 0x5800 ++ leBytes 2 0 ++ leBytes 2 1
def sQe (g : Bool) : State :=
  { State.reset with
    readyReg := 0xFFFFFFFF, nextId := 9, enqs := [{ tenant := 0, q := 1, ctx := 0, addr := if g then 0x6040 else 0x5000, graph := g }]
    dieTlb := [(0, [{ ctx := 0, level := 0, page := 5, pte := 0x4000501D }, { ctx := 0, level := 0, page := 6, pte := 0x4000601D }])]
    mem := cells1 ++
      [(0x40005800, 1), (0x40005804, 77), (0x40005841, 128), (0x40005848, 4), (0x4000584C, 1),
       (0x4000584E, 1), (0x40005850, 1), (0x40005856, 1), (0x40005858, 1), (0x40005859, 64)] ++
      [(0x40006040, 2), (0x40006042, 1), (0x40006048, 136), (0x40006051, 80), (0x40006059, 88), (0x40006062, 1)] }
def holds (o : ObjRead) (b : List Byte) : Bool := match o with | .bytes x => x == b | _ => false
theorem test_enqueue_hypotheses :
    ((sQe false).takeEntry 0 1 false false).map (fun x => (x.1.addr, holds (x.2.readObj launcher 0 0 0x5000 512 x.1.fails) card1)) = some (0x5000, true) ∧
    ((sQe true).takeEntry 0 1 false true).map (fun x => (x.1.addr, holds (x.2.readObj launcher 0 0 0x6040 16 x.1.fails) (graph1.take 16),
      holds (x.2.readObj launcher 0 0 0x6050 20) (graph1.drop 16))) = some (0x6040, true, true) ∧
    (sQe false).xlateDie 0 0 0x5000 .read = .ok 0x40005000 false := by decide +kernel
theorem test_enqueue :
    ((nxt (exec (.cardEnqueue 0 1 false) (sQe false))).cards.map fun c => (c.1, c.2.cardid, c.2.status, c.2.st)) = [(9, 77, 0, .ready)] ∧
    ((nxt (exec (.graphEnqueue 0 1 false) (sQe true))).cards.map fun c => (c.1, c.2.status, c.2.st, c.2.preds)) =
      [(10, 0, .ready, []), (11, 0, .waiting, [10])] := by decide +kernel
def cardD (n : Nat) : Card :=
  { addr := 0x5000, body := .copy { descOf desc1 with src := 0x5000, dst := 0x6000 }, st := .ready, queue := 1, ending := n, status := 2, failed := 7 }
def sCd (n : Nat) : State := { sQe false with enqs := [], cards := [(3, cardD n)], spsize := 4096 }
theorem test_card_steps :
    (sCd 0).cardStartDue 3 = true ∧ (sCd 1).xlateDie 0 0 0x5030 .write = .ok 0x40005030 false ∧
    ((nxt (exec (.cardStart 3) (sCd 0))).copies.map fun c => (c.2.card, c.2.started)) = [(some 3, true)] ∧
    ((nxt (exec (.cardComplete 3) (sCd 1))).accs.map fun a => (a.1, a.2.key, a.2.data.take 8)) = [(9, 0x40005030, [2, 0, 0, 0, 7, 0, 0, 0])] := by
  decide +kernel

/-- A collective of one entry that sends the sum of two contributions to device 3, where it is entry 5. -/
def ent (l : Tbl Contribution) : CEntry :=
  { op := 1, fmt := 8, nin := 2, send := true, len := 128, laddr := 0, peer := 3, pidx := 5, senders := [1, 2], st := .fired, firedAt := 100
    ready := 100, contribs := l }
def con (x : Nat) (k : Word) : Contribution :=
  { collid := 0x12345, entry := 2, sender := x, data := (List.range 32).flatMap fun j => leBytes 4 (k + wn j).toNat, poison := [] }
def ins (l : Tbl Contribution) : Inst := { collid := 0x12345, cnt := 0x5000, stg := 2 ^ 17, wdc := 500, entries := [(2, ent l)] }
def sI (l : Tbl Contribution) (c : Contribution) : State :=
  { sQe false with dt := 1000, enqs := [], insts := [(6, ins l)], input := { msg := c, id := 6, value := 0x12345, peer := 9 } }
def both : Tbl Contribution := [(0, con 1 7), (1, con 2 0x7FFFFFFF)]
theorem test_collective_hypotheses :
    (sI [] (con 2 7)).receiver (con 2 7) = some (6, ins []) ∧ (ent []).placeOf 2 = some 1 ∧ (ent []).placeOf 8 = none ∧
    (sI [] (con 8 7)).receiver (con 8 7) = some (6, ins []) ∧ (con 2 7).data.length = 128 ∧ (sI both (con 2 7)).runDue 6 2 = true ∧
    ({ sI both (con 2 7) with insts := [] } : State).receiver (con 2 7) = none ∧ (sI both (con 2 7)).peerUp 9 = true := by decide +kernel
theorem test_collectives :
    (((nxt (exec .collectiveContribution (sI [] (con 2 7)))).centry 6 2).map fun x => x.contribs.map fun p => (p.1, p.2.sender)) = some [(1, 2)] ∧
    (((nxt (exec .collectiveContribution (sI [] (con 8 7)))).centry 6 2).map fun x => x.proto) = some true ∧
    (((nxt (exec (.collectiveEntryRun 6 2) (sI both (con 2 7)))).sending.map fun x => (x.peer, x.msg.entry, x.msg.collid, x.msg.data.take 4)) =
      [(3, 5, 0x12345, [6, 0, 0, 0x80])]) ∧
    ((nxt (exec .collectiveAbort (sI both (con 2 7)))).inst 6).map (fun i => i.active) = some false ∧
    (((nxt (exec .counterQuery { sI both (con 2 7) with insts := [] })).outbox.map fun o => match o with | .counterAnswer _ p v => (p, v) | _ => (0, none)) =
      [(9, some 0)]) := by decide +kernel
def rearm1 : Rearm := { inst := ins both, rearm := true, v := 100, wait := [9, 4], stage := 2, start := 0 }
def sTo : State := { sI both (con 2 7) with insts := [(6, { ins both with team := some { uid := 7 } })], teams := [(0, tm0)] }
theorem test_collective_watch :
    sTo.entryLate 6 2 = true ∧ sTo.teamAt 7 = some 0 ∧
    ((nxt (exec (.collectiveTimeout 6 2) sTo)).ctx 0).events.map (fun e => e.2.1) = [0x02042345] ∧
    ((nxt (exec .counterQueryAnswer { sI both default with rearms := [(6, rearm1)], input := { id := 6, peer := 9, value := 50 } })).rearms.map
      fun r => (r.2.wait, r.2.low)) = [([4], true)] ∧
    ((nxt (exec (.counterQueryTimeout 6 9) { sI both default with rearms := [(6, rearm1)], dt := 2 ^ 20 })).rearms.map fun r => (r.2.wait, r.2.low)) =
      [([4], true)] ∧
    holds ((sI both default).readObj (collSrc 0) 0 0 0x5000 8) (card1.take 8) = true := by decide +kernel

/-- A tenant with a ring that has an entry, and a context with a fault queue that is full and a record that waits. -/
def rec0 : Rec := { typ := 0, b0 := 5 * 256 + 17, f24 := 77, dt := 5, ctx := some 3, launchid := 9 }
def base : State :=
  { State.reset with
    dt := 1000, clusters := [(1, { steps := 5, unlock := true, retreq := true, pending := some 6, capPend := some 2 })]
    tenants := [(2, { queues := [(1, { base := 0x100, size := 4, head := 2, tail := 3, bad := 0xFFFFFFFF })], mask := 0xFFFFFFDF
                      pend := 0x120, addr := 0x8004, data := 0x70 })]
    ctxs := [(3, { tenant := 2, fqbase := 0x4000, fqsize := 4, fqhead := 5, fqtail := 1, fqwait := [rec0] }), (5, { tenant := 1 })] }
/-- A value written to a register of the tenant, the queue, the context and the cluster above. -/
def sR (v : Dword) (cx : Nat) (r : Reg) : State := { base with input := { value := v, tenant := 2, q := 1, ctx := cx, cluster := 1, reg := r } }
theorem test_register_hypotheses :
    (let s := sR 0xFFFFFEDF 3 .ready
     ((6 : Word) - (s.queue 2 1).head).toNat ≤ (s.queue 2 1).size.toNat ∧ (s.queue 2 1).size.toNat < ((7 : Word) - (s.queue 2 1).head).toNat ∧
       (s.ctx 5).fqwait = [] ∧ (s.ctx 3).fqwait = [rec0] ∧ (s.ctx 3).fqhead - 3 ≠ (s.ctx 3).fqsize ∧ (s.ctx 3).fqsize ≠ 0 ∧
       (s.tenant 2).addr ≠ 0 ∧ (s.tenant 7).addr = 0 ∧ (s.tenant 2).mask.getLsbD 16 = true) ∧
    ∀ n, n < 32 → (((base.tenant 2).pend.getLsbD n = true ∧ (base.tenant 2).mask.getLsbD n = true ∧ (0xFFFFFEDF : Word).getLsbD n = false) ↔ n = 8) := by
  decide
theorem test_registers :
    (let t := nxt (exec .leasectlWrite (sR 0x1FFF0001 3 .ready)); (t.llhbm, t.llhost)) = (64, 4096) ∧
    (let t (v : Dword) := nxt (exec .qtailDoorbell (sR v 3 .ready)); ((t 6).queue 2 1).tail = 6 ∧ ((t 7).queue 2 1).tail = 3) ∧
    ((nxt (exec .qbaseWrite (sR 0x77 3 .ready))).queue 2 1).bad = 0 ∧ ((nxt (exec .fqtailWrite (sR 5 5 .ready))).ctx 5).fqtail = 5 ∧
    ((nxt (exec .fqtailWrite (sR 3 3 .ready))).ctx 3).fqhead = 6 ∧ ((nxt (exec .agectlWrite (sR 0x33 3 .ready))).cluster 1).pending = some 3 ∧
    (nxt (exec .irqmaskWrite (sR 0xFFFFFEDF 3 .ready))).outbox.length = 1 ∧
    (nxt (exec .registerWrite (sR 0x123456789ABCDEF0 3 (.invva 3)))).readReg (.invva 3) = 0x123456789ABCDEF0 ∧
    (nxt (exec .registerWrite (sR 1 3 (.irqPending 2)))).tenant 2 = { base.tenant 2 with pend := 0x120 } ∧
    (nxt (exec .registerWrite { sR 6 3 (.dentry 1) with fwRunning := true })).readReg (.dentry 1) = 6 ∧
    (nxt (exec .registerWrite (sR 6 3 (.dentry 1)))).readReg (.dentry 1) = 0 := by decide

/-- Bytes at 0x40000010; the frames 0x40000 and 0x40001 are granted to device 7 for tenant 2; a line with an open accumulator. -/
def sX2 (h : HostOp) (r : RemoteOp) : State :=
  { base with
    readyReg := 0xC00, mem := msets [] 0x40000010 (leBytes 8 0x1122334455667788), grants := [(7, 2, 0x40000), (7, 2, 0x40001)]
    lines := [(0x700000, { acc := some 3 })], dirty := [1, 64, 66, 127, 128]
    input := { hostOp := h, remoteOp := r, peer := 7, tenant := 2, addr := 1 } }
/-- Lines of which the slices hold nothing, with no access under way. -/
theorem closed_fresh (s : State) (key n : Nat) (h : s.lines = []) (k : s.accs = []) (d : s.deferred = []) : Closed s key n :=
  have e (a : Nat) : s.line a = {} := by rw [State.line, h]; rfl
  ⟨⟨d, fun a _ _ => ⟨by rw [e]; exact (fun c => nomatch c), fun x hx => by rw [k] at hx; exact (nomatch hx)⟩⟩, fun a _ _ => by rw [e]⟩
/-- The next entry of the fault queue of context 3, and a line with an open accumulator. -/
theorem test_quiet_lines : Closed (sR 3 3 .ready) 0x4040 64 ∧ Quiet (sX2 default default) 0x38000000 1 := by
  refine ⟨closed_fresh _ _ _ rfl rfl rfl, rfl, fun a x y => ?_⟩
  rw [show a / 128 = 0x700000 by omega]
  exact ⟨by decide, fun z hz => by cases hz⟩
def bytes1 (l : List OutMsg) : List (List Byte × Nat) := l.map fun m => match m with | .bytes _ b _ => (b, 0) | .refused _ c => ([], c) | _ => ([], 99)
theorem closed1 : Closed (sX2 default default) 0x40000010 8 := by
  have h1 (a : Nat) (x : 0x40000010 ≤ a) (y : a < 0x40000010 + max 1 8) : a / 128 = 0x800000 := by omega
  exact ⟨⟨rfl, fun a x y => by rw [h1 a x y]; exact ⟨by decide, fun z hz => by cases hz⟩⟩, fun a x y => by rw [h1 a x y]; decide⟩
theorem test_outside_hypotheses : Closed (sX2 default default) 0x40000010 8 ∧ ((sX2 default default).line (0x38000000 / 128)).acc ≠ none ∧
    (∀ f, 0x40000 ≤ f → f < (0x40000010 + 8 + 4095) / 4096 → (7, 2, f) ∈ (sX2 default default).grants) ∧
    (7, 2, 0x40002) ∉ (sX2 default default).grants ∧ (sX2 default default).anyMarked 0x40000010 8 = false ∧
    (∀ e ∈ (sX2 default default).ctxs, e.2.migr.state ≠ 1 ∧ e.2.migr.state ≠ 2) :=
  ⟨closed1, by decide, fun f x y => by rw [show f = 0x40000 by omega]; decide, by decide, by decide, by decide⟩
theorem test_outside :
    bytes1 (nxt (exec .hostAccess (sX2 (.load false 0x40000010 4) default))).outbox = [([0x88, 0x77, 0x66, 0x55], 0)] ∧
    mgets (nxt (exec .hostAccess (sX2 (.store true 0x40000012 [1, 2]) default))).mem (2 ^ 48 + 0x40000010) 5 = [0, 0, 1, 2, 0] ∧
    bytes1 (nxt (exec .hostAccess (sX2 (.store false 0x38000000 [1]) default))).outbox = [([], 16)] ∧
    bytes1 (nxt (exec .hostAccess (sX2 (.readWindow 2 0x5000) default))).outbox = [([0, 0, 0, 0], 0)] ∧
    bytes1 (nxt (exec .remoteAccess (sX2 default (.load 0x40001FF0 17)))).outbox = [([], 11)] ∧
    bytes1 (nxt (exec .remoteAccess (sX2 default (.load 0x40000010 2)))).outbox = [([0x88, 0x77], 0)] ∧
    mgets (nxt (exec .remoteAccess (sX2 default (.add 0x40000010 3)))).mem 0x40000010 8 = leBytes 8 0x112233445566778B ∧
    mgets (nxt (exec .remoteAccess (sX2 default (.store 0x40000010 [9])))).mem 0x40000010 2 = [9, 0x77] ∧
    (nxt (exec .remoteAccess (sX2 default (.atom 6 0x40000010 4 5 0)))).accs.map (fun a => (a.2.src, a.2.value)) =
      [(4608, [0x88, 0x77, 0x66, 0x55])] ∧
    (nxt (exec .dirtyBitmapFetchClear (sX2 default default))).dirty = [1, 128] := by decide +kernel

/-- Translations of context 3 cached in a core and a die; and of context 4. -/
def tl (c p : Nat) : TlbE := { ctx := c, level := 0, page := p, pte := 1 }
def sIv (v : Dword) : State :=
  { base with
    input := { value := v, ctx := 3 }, cores := [(1, { tlb := [tl 3 4, tl 3 5, tl 3 6, tl 4 4], lastPage := [(2, tl 3 5)] })]
    dieTlb := [(0, [tl 3 4, tl 3 9])]
    ctxs := [(3, { tenant := 2, invva := 0x4010, rootReg := 0x9000, root := 0x8000, invseq := 65535 })] }
def sIv2 : State := { nxt (exec .moveInvalidate (sIv 2)) with dt := 9000 }
theorem test_invalidations :
    (base.ctx 3).inv.isNone = true ∧ sIv2.invDue 3 = true ∧ ((sIv2.ctx 3).inv.map fun x => (x.first, x.pages, x.all, x.move)) = some (4, 2, false, true) ∧
    ((nxt (exec .invalidate (sIv 0))).ctx 3).refused = true ∧ ((nxt (exec .invalidate (sIv 2))).core 1).tlb = [tl 3 6, tl 4 4] ∧
    ((nxt (exec .invalidate (sIv 0x100000000))).core 1).tlb = [tl 4 4] ∧ ((nxt (exec .invalidate (sIv 0x100000000))).ctx 3).root = 0x9000 ∧
    ((nxt (exec (.invalidationDone 3) sIv2)).ctx 3).invseq = 0 ∧ ((nxt (exec (.invalidationDone 3) sIv2)).tenant 2).pend.getLsbD 17 = true ∧
    (base.tenant 2).mask.getLsbD 17 = true := by decide

/-- A load of thread 0 under park 4. -/
def pk : Park := { id := 4, kind := .access, pages := [{ cause := 8, va := 0x1000, lanes := [0] }] }
def aP : Access :=
  { src := 0, kind := .load, tk := 0, g := 0, lanes := [0], va := 0x1010, key := 0, width := 8, dst := some 20, dt := 900, stage := .parked 4 }
def gP : Group := { gr [[8], [9]] with parks := [pk] }
def sP : State :=
  { st (tm gP) (cl .L [0]) with
    issues := [], accs := [(3, aP)], input := { ctx := 0, id := 0x10004 }, nextId := 9
    cores := [(0, { lastPage := [(0, { ctx := 0, level := 0, page := 1, pte := 0x4000101D })] })] }
theorem test_park_hypotheses : OnePark sP 0 0 3 (tm gP) gP pk aP ∧ AtHand sP 0 (laneOf 0 0) 0 0x1010 .read 0x40001010 ∧ Waits sP aP 0 20 :=
  ⟨⟨rfl, rfl, rfl, rfl, rfl, rfl, ⟨rfl, rfl, rfl, rfl, rfl, rfl⟩, by decide, rfl, rfl, rfl⟩,
   ⟨{ ctx := 0, level := 0, page := 1, pte := 0x4000101D }, rfl, by decide, by decide, by decide⟩,
   ⟨rfl, rfl, gP, th [8], rfl, rfl, by decide, rfl, .inl (by decide)⟩⟩
theorem test_resolves :
    ((nxt (exec .resolveReplay sP)).accs.map fun a => (a.2.key, decide (a.2.stage = .core))) = [(0x40001010, true)] ∧
    (nxt (exec .resolveFail sP)).getR 0 0 0 21 = poisoned ∧ ((nxt (exec .resolveFail sP)).ctx 0).resolve = 0x10004 ∧
    ((nxt (exec .resolveKill sP)).thread 0 0 1).map (·.st) = some .exited ∧ ((nxt (exec .resolveKill sP)).team 0).map (·.failed) = some true := by
  decide

/-- Two records of source 300, the second for a fault queue; a snapshot that is due, with one thread that waits. -/
def sTr (l : List Rec) : State :=
  { base with
    sources := [(300, { buf := l })], windex := 3, ctxs := [(3, { tenant := 2, fqbase := 0x4000, fqsize := 4, fqhead := 5, fqtail := 2 })] }
def sSn (b : Bool) : State :=
  { st (tm { gr [[8]] with th := [(0, { th [8] with st := .waiting [.tb 1 false] 5 })] }) (cl .L []) with
    issues := [], snapPend := true, snapdt := 999, snapTaken := b, sources := [(0, { seq := 65535 })] }
theorem test_record_line (l : List Rec) : Closed (sTr l) 0x4040 64 := closed_fresh _ _ _ rfl rfl rfl
theorem test_records :
    (sTr [{ rec0 with seq := 70001, typ := 9 }]).storeDue 300 = true ∧ (sTr [rec0]).storeDue 300 = true ∧
    (sSn false).snapDue = true ∧ (sSn true).snapEndDue = true ∧ ((sSn false).currentWaits.map fun w => (w.src, w.recs.length)) = [(0, 1)] ∧
    (nxt (exec (.traceRecordStore 300) (sTr [rec0, rec0]))).windex = 4 ∧ ((nxt (exec (.traceRecordStore 300) (sTr [rec0]))).ctx 3).fqhead = 6 ∧
    ((nxt (exec .snapshotTake (sSn false))).sources.map fun x => (x.2.seq, x.2.buf.map fun r => (r.typ, r.seq))) = [(0, [(1, 65535)])] ∧
    (nxt (exec .snapshotEnd (sSn true))).snapPend = false ∧ (nxt (exec .snapshotRequest (sR 2000 3 .ready))).snapRefused = true ∧
    (nxt (exec .snapshotRequest (sR 2200 3 .ready))).snapdt = 2200 ∧ (nxt (exec .snapshotForwardReceived (sR 7 3 .ready))).snapdt = 7 := by decide

/-- A debugger's target: lanes 0 to 2 of group 1 of launch 5, in a slot or saved; a mailbox of two records; a range of one granule. -/
def mDb : Team :=
  { tm (gr [[8]]) with
    launchid := 5, ranges := [(3, { gran := 1, bytes := [(5, 7)], record := some 5 })]
    groups := [(1, { gr [[8]] with th := [(0, th [8]), (1, { th [9] with halted := true }), (2, { th [] with st := .exited }), (3, th [])] })] }
def sDb : State :=
  { st mDb { cl .L [0] with g := 1 } with
    cores := [(4, { mbox := [{ kind := 1, id := 5 }, { kind := 1, id := 6 }] })]
    input := { core := 4, tk := 0, id := 3, addr := 5, mask := 0xF0
               target := { ctx := 0, launch := 5, tx := 0, ty := 0, tz := 0, groups := 0xFFF2, lanes := 0x7 } } }
theorem test_debugger :
    IsTarget mDb sDb.input.target ∧ (∀ x ∈ mDb.groups, x.2.limbs = none ∧ tsorted x.2.th = true ∧ ∀ e ∈ x.2.th, e.1 < 32 ∧ e.2.waiting = false) ∧
    ((nxt (exec .debugHalt sDb)).thread 0 1 0).map (·.haltPend) = some true ∧ ((nxt (exec .debugResume sDb)).thread 0 1 1).map (·.halted) = some false ∧
    ((nxt (exec .debugStep sDb)).thread 0 1 1).map (·.step) = some true ∧
    ((nxt (exec .debugStep { sDb with teams := [], saves := [(9, { team := mDb })] })).saves.map fun v => v.2.cmds.map (·.1)) = [[2]] ∧
    ((nxt (exec .mboxPop sDb)).core 4).mbox.map (·.id) = [6] ∧ mgets ((nxt (exec .tsInjection sDb)).range 0 3).bytes 4 3 = [0, 0xF7, 0] := by
  unfold IsTarget; decide

/-! Reliability, bring-up, migration, and the whole machine. -/

/-- A team of core 0 that a checkpoint of 60 ticks ago holds with other registers; a write of the other engine of die 1. -/
def mA : Team := { tm (gr [[8, 1], [9, 2]]) with sh := [(5, 7)] }
def mOld : Team := { mA with groups := [(0, gr [[1], [2]])], sh := [(5, 9)] }
def sA : State :=
  { st mA (cl .L [0]) with
    issues := [], input := { core := 0, region := .array 0, slice := 3, lane := 2, die := 1, count := 46 }
    cores := [(0, { slots := [(0, { st := .running })], slices := [(1, { failing := [1, 2] }), (2, { failing := [1], spused := true })] })] }
def sCk : State := { sA with checks := [(0, [{ sA.checkpoint 0 with dt := 940, teams := [(0, mOld)] }])] }
def aEs : Access := { src := 513, kind := .engine, tk := 2 ^ 20, data := [1, 2], key := 0x500, width := 2, stage := .net 1100 0, dt := 990 }
theorem test_strikes :
    sA.recent.isEmpty = true ∧ sA.redo.isEmpty = true ∧ ((List.range 16).all fun n => (sCk.slot n).st ≠ .saving) = true ∧ (tget sA.checks 0 []).isEmpty = true ∧ (tget sCk.checks 0 []).length = 1 ∧ (sCk.slot 0).st ≠ .ending ∧
    mOld.uid = mA.uid ∧ ((nxt (exec .strikeReport sA)).core 0).stop = 1024 ∧ ((nxt (exec .strikeReport sCk)).team 0).map (·.sh) = some [(5, 9)] ∧
    ((nxt (exec .engineStrikeReport { sA with accs := [(4, aEs)] })).accs.map fun a => (a.1, a.2.data, a.2.key)) = [(4, [1, 2], 0x500)] := by decide
/-- Lanes that fail, of slice 1 with its spare free and of slice 2 with its spare in use. -/
theorem test_lanes_lost :
    sA.takeoverDue 0 1 = true ∧ sA.takeoverDue 0 2 = true ∧ (sA.sliceSt 0 1).spused = false ∧ (sA.sliceSt 0 2).spused = true ∧
    ((nxt (exec .laneFailCommand sA)).sliceSt 0 3).failing = [2] ∧
    (let t := (nxt (exec (.laneTakeover 0 1) sA)).sliceSt 0 1; (t.failing, t.splane, t.spused, t.stop)) = ([2], 1, true, 1128) := by decide
def sA9 : State :=
  { sA with teams := [(0, { tm (gr (List.replicate 10 [1])) with groups := [(0, gr (List.replicate 10 [1]))] })]
            cores := [(0, { slices := [(2, { failing := [1], spused := true })] })] }
theorem test_lane_kills : sA9.takeoverDue 0 2 = true ∧ ((nxt (exec (.laneTakeover 0 2) sA9)).thread 0 0 9).map (·.st) = some .exited ∧
    ((nxt (exec (.laneTakeover 0 2) sA9)).thread 0 0 8).map (·.st) = some .ready := by decide
def sSc (r : ScrubResult) : State := { sA with input := { line := 0x8000, scrub := r } }
/-- A slice of the home of 0x40001004 that has nothing under way, and a clock step that is due. -/
def sRp : State := { sA with input := { die := homeDie 0x40001004, slice := sA.homeSlice 0x40001004 }, lines := [(0x800020, { maxLE := 7, owners := [(1, 2)] })] }
theorem test_repairs :
    (nxt (exec .scrubPass (sSc .corrected))).readReg (.corrected 0) = 1 ∧ (nxt (exec .scrubPass (sSc .corrected))).dirty = [0x400] ∧
    ((List.range 33).map fun k => (nxt (exec .scrubPass (sSc .uncorrectable))).marked (128 * 0x8000 + 4 * k)) = List.replicate 32 true ++ [false] ∧
    sRp.replaced.isEmpty = true ∧ sRp.sliceQuiet sRp.input.die sRp.input.slice = true ∧
    (nxt (exec .sliceReplacement sRp)).homeSlice 0x40001004 = sRp.input.slice ^^^ 16 ∧ ((nxt (exec .sliceReplacement sRp)).line 0x800020).maxLE = 0 ∧
    base.clockDue 1 = true ∧ ({ base with dt := 2 ^ 20 } : State).ageingDue 1 = true ∧ ((nxt (exec (.clockStep 1) base)).cluster 1).steps = 6 ∧
    ((nxt (exec (.clockStep 1) base)).cluster 1).stop = 2200 ∧ ((nxt (exec .thermalTrip sA)).cluster 35).capPend = some 12 := by decide
theorem test_slice_error :
    (let h := sA.homeSlice (128 * 0x8000)
     let e := { sA with input := { region := .homeSlice (homeDie (128 * 0x8000)) h (.data 0x8000) } }
     isRemote (128 * 0x8000) = false ∧ (sA.line 0x8000).acc = none ∧ (nxt (exec .strikeReport e)).marked (128 * 0x8000 + 124) = true) := by
  decide +kernel

/-- A context whose table maps one page, the frame 0x40, which has been written. -/
def sM (n : Nat) : State :=
  { sA with
    teams := [], dirty := [0x40], input := { ctx := 3, peer := 1, q := 2, id := 77, flag := true, addr := 0x40000, value := 5 }
    mem := [(0x1000, 3), (0x1001, 0x20), (0x2000, 3), (0x2001, 0x30), (0x3000, 3), (0x3001, 0x40), (0x4000, 3), (0x4001, 0x50), (0x5000, 0x1D),
            (0x5002, 4)]
    ctxs := [(3, { tenant := 2, root := 0x1000, peers := [(1, 5)], migr := { state := n, peer := 1, key := 2, job := 77, round := 3 } })]
    tenants := [(2, { mask := 0xFFFFFFFF })] }
theorem dword_zero (s : State) (k : Nat) (h : ∀ j, j < 8 → tget? s.mem (k + j) = none) : s.dword k = 0 := by
  have e : s.bytes k 8 = List.replicate 8 0 := by
    simp only [State.bytes, mgets, mget, tget, List.eq_replicate_iff, List.length_map, List.length_range, List.mem_map, List.mem_range, true_and]
    rintro b ⟨j, x, rfl⟩
    rw [h j x]; rfl
  rw [State.dword, e]; rfl
theorem leaves_first (s : State) (l tbl base : Nat) (h : ∀ n, n ≠ 0 → n < 512 → s.dword (tbl + 8 * n) = 0) :
    s.leaves l tbl base = (fun e => if !e.testBit 0 || malformed e l then [] else if e.testBit 1 then
        (match l with | 0 => [] | l + 1 => s.leaves l (field e 12 36 * 4096) base) else [(base, l, e)]) (s.dword tbl) := by
  have k : ∀ m, m < 512 → ∀ f : Nat → List (Nat × Nat × Nat), (∀ n, n ≠ 0 → n < 512 → f n = []) → (List.range (m + 1)).flatMap f = f 0 := by
    intro m hm f hf
    rw [List.range_succ_eq_map, List.flatMap_cons, List.flatMap_map, List.flatMap_eq_nil_iff.2, List.append_nil]
    intro n hn
    exact hf _ (Nat.succ_ne_zero n) (by have := List.mem_range.1 hn; omega)
  rw [State.leaves.eq_def]
  simp only []
  rw [show (if (l == 4) = true then 256 else 512) = (if (l == 4) = true then 255 else 511) + 1 by split <;> rfl, k _ (by split <;> omega)]
  · cases l <;> simp
  · intro n h0 h1
    simp [h n h0 h1]
/-- No cell of the table at `b` but those of its first entry. -/
theorem table_zero (n : Nat) (b k : Nat) (hb : b ∈ [0x1000, 0x2000, 0x3000, 0x4000, 0x5000]) (h0 : k ≠ 0) (h1 : k < 512) :
    (sM n).dword (b + 8 * k) = 0 := by
  apply dword_zero
  intro j hj
  have : (sM n).mem = [(0x1000, 3), (0x1001, 0x20), (0x2000, 3), (0x2001, 0x30), (0x3000, 3), (0x3001, 0x40), (0x4000, 3), (0x4001, 0x50),
    (0x5000, 0x1D), (0x5002, 4)] := rfl
  simp only [List.mem_cons, List.not_mem_nil, or_false] at hb
  simp only [this, tget?]
  repeat rw [if_neg (by omega)]
theorem test_frames : (sM 0).framesOf 3 = [(0x40, 1)] := by
  have h (l b : Nat) (hb : b ∈ [0x1000, 0x2000, 0x3000, 0x4000, 0x5000]) := leaves_first (sM 0) l b 0 (fun k => table_zero 0 b k hb)
  have up (l b e t : Nat) (hb : b ∈ [0x1000, 0x2000, 0x3000, 0x4000, 0x5000]) (hd : (sM 0).dword b = e)
      (h1 : (!e.testBit 0 || malformed e (l + 1)) = false) (h2 : e.testBit 1 = true) (ht : field e 12 36 * 4096 = t) :
      (sM 0).leaves (l + 1) b 0 = (sM 0).leaves l t 0 := by
    rw [h _ _ hb, hd, ← ht]; simp only [h1, h2, if_true, Bool.false_eq_true, if_false]
  rw [State.framesOf, State.invFrames, show ((sM 0).ctx 3).root.toNat = 0x1000 from rfl,
    up 3 _ 0x2003 0x2000 (by decide) (by decide) (by decide) (by decide) (by decide),
    up 2 _ 0x3003 0x3000 (by decide) (by decide) (by decide) (by decide) (by decide),
    up 1 _ 0x4003 0x4000 (by decide) (by decide) (by decide) (by decide) (by decide),
    up 0 _ 0x5003 0x5000 (by decide) (by decide) (by decide) (by decide) (by decide), h 0 _ (by decide)]
  decide
theorem test_migration :
    ((sM 0).tenant 2).mask.getLsbD 18 = true ∧ (sM 1).slotsOf 3 = [] ∧ ((sM 1).ctx 3).migr.found.isEmpty = true ∧
    ((nxt (exec .migrationStop (sM 1))).ctx 3).migr.state = 2 ∧
    tget (nxt (exec .migrationKeyLoad { sM 0 with fwRunning := true, input := { id := 4, key := 9 } })).keys 4 0 = 9 := by decide
theorem test_received : (sM 0).received.isEmpty = true ∧ 4096 * 0x40 + 4096 ≤ 2 ^ 48 ∧ Closed (sM 0) 0x40000 4096 :=
  ⟨by decide, by decide, closed_fresh _ _ _ rfl rfl rfl⟩
/-- Bring-up: a function that comes after the controller, and what power and a reset leave. -/
theorem test_bring_up :
    (nxt (exec .selfTestComplete { sM 0 with input := { id := 5, flag := true }, failedReg := 1 })).readyReg = 32 ∧
    (nxt (exec .selfTestComplete { sM 0 with input := { id := 5 } })).failedReg = 32 ∧ (nxt (exec .powerOn sA)).dt = 0 ∧
    (nxt (exec .powerOn { sA with input := { time := some 7 } })).dt = 7 ∧ (nxt (exec .deviceReset (sM 1))).teams = [] ∧
    (nxt (exec .deviceReset (sM 1))).mem = (sM 1).mem ∧ (nxt (exec .attestationRequest sA)).outbox.length = 0 := by decide

/-- The instructions of a clause are fetched across a page's end of the table, through a page of 2 MiB: two words of an iadd. -/
def sF : State :=
  { sA with
    mem := msets [] 0x40000FFC ([0xF1020304, 0xA].flatMap fun w => leBytes 4 w)
    cores := [(0, { tlb := [{ ctx := 3, level := 1, page := 0, pte := 0x4000001D }] })] }
theorem test_fetch : (match (sF.fetch 0 3 0xFFC).1 with | .ok l => l | .error _ => []) = [0xF1020304, 0xA] ∧
    (∀ k, k < 16 → ({ ctx := 3, level := 1, page := 0, pte := 0x4000001D : TlbE }).hits 3 (0xFFC + 4 * k) = true) ∧
    admits (0x4000001D : Dword).toNat .exec = true ∧ (∀ k, k < 16 → sF.marked (0x40000FFC + 4 * k) = false) := by decide
/-- A step takes the next word of the clause, v3 = v1 + 1, whose turn it is; or a step of the hardware out of the agenda. -/
def sStp : State := { run .L [[41]] with turn := true, issues := [{ cl .L [0] with words := [0x000301E1] }] }
def sAg : State := { run .L [[41]] with agenda := [(.leaseExpiry 2 5, default)], cores := [(2, { l1 := [(5, { le := 900, words := [] })] })] }
theorem test_step :
    decodeNext .L [0x000301E1] = some (.iadd .L (rr 3 1 225), []) ∧ (nxt (step sStp)).getR 0 0 0 3 = clean 42 ∧ goes (step State.reset) = true ∧
    ((nxt (step sAg)).core 2).l1.length = 0 := by decide
/-- A well-formed instruction, and memory in its form before and after a store reaches its home slice. -/
theorem test_forms : WellFormed (.iadd .L (rr 3 1 225)) = true ∧ Memory.wf (sS [(3, stA (.net 990 3))]).mem = true ∧
    Memory.wf (nxt (exec (.homeSliceWrite 3) (sS [(3, stA (.net 990 3))]))).mem = true ∧ Memory.wf State.reset.mem = true := by decide
/-- The step that a word placed for the next fetch runs as the first after reset. -/
theorem test_placed : decodeTableWord 32 0x000301E1 = some (.iadd .L (rr 3 1 225)) ∧ goes (step (State.reset.withFetchWord 32 0x000301E1)) = true := by
  decide

/-! Issues that trap, accesses that end at issue, and the further clauses of the statements above. -/

/-- Two threads at 0x1000 that read v1, pending in the second. -/
def gJ : Group := { gr [[8, 1], [2, 2]] with ba := 32, linkBase := 0x2000, linkSize := 0x10000 }
def mJ : Team := { tm gJ with hframe := 0 }
def sJ (pte : Dword) (l : List Word) : State :=
  { sQ with teams := [(0, mJ)], mem := mem1 l, ops := [(6, { tk := 0, g := 0, slot := 3, pend := [(1, [1])], left := 1 })]
            cores := [(0, { tlb := [{ ctx := 0, level := 0, page := 1, pte := pte }], slots := [(0, { st := .running, card := kc })] })] }
def jIad : List Word := [0xF1100700, 0x00030102]
theorem at_header (b : Bool) : AtHeader (sJ (if b then 0x4000101D else 0x4000100D) jIad) 0 0 0 mJ gJ [0, 1] 0x1000 :=
  ⟨rfl, rfl, by cases b <;> decide, by decide, rfl, by decide, by decide, by decide, by unfold CallStays; decide, fun _ h => nomatch h⟩
/-- The causes of the two threads after a clause issue. -/
def traps (s : State) : List (Option Word) := [0, 1].map fun n => ((nxt (exec (.clauseIssue 0 0 0) s)).thread 0 0 n).map fun x => x.xcause
/-- A page that is not executable; words that are no clause; v40 and v41 of a window of 32; a privileged word; a pending v1; a poisoned
page that can be repaired, which parks. -/
theorem test_issue_traps :
    traps (sJ 0x4000100D jIad) = [some 4, some 4] ∧ traps (sJ 0x4000101D [0x00030102]) = [some 29, some 29] ∧
    traps (sJ 0x4000101D [0xF1100700, 0x00282802]) = [some 31, some 31] ∧ traps (sJ 0x4000101D [0xF1300700, 0x10000000]) = [some 32, some 32] ∧
    traps (sJ 0x4000101D jIad) = [some 0, some 30] ∧
    ((nxt (exec (.clauseIssue 0 0 0) { sJ 0x4000109D jIad with poison := [0x40001000] })).group 0 0).map (fun g => g.parks.map (·.kind)) = some [.fetch] := by
  decide
theorem test_bad_causes :
    BadCause sX iX mX .sh .read (mx (mm 20 140 2 0 2) (ex 4 4096)) 0 14 ∧ BadCause sX iX mX .sh .write (mx (mm 20 140 2 0 2) (ex 4 2)) 0 15 ∧
    BadCause sX iX mX .sp .atom (mx (mm 20 140 2 0 2) (ex 4 2)) 0 15 ∧ BadCause sX iX mX .g .read (mx (mm 20 140 2 0 2) (ex 4 0x1FFFC)) 0 13 ∧
    BadCause sX iX mX .g .write (mx (mm 20 140 2 0 2) (ex 4 18)) 0 15 ∧ BadCause sX iX mX .g .atom (mx (mm 20 140 2 0 2) (ex 4 0x2000)) 0 12 ∧
    (stored sX iX (mm 69 140 2 0 2) 0).2 = true ∧ (operand sX iX .add (mx (mm 20 140 2 0 2) (ex 69 16)) 0).2.2 = true ∧
    ((nxt (exec (.stG (mx (mm 69 140 2 0 2) (ex 4 16))) sX)).thread 0 0 0).map (·.st) = some .exited ∧
    (nxt (exec (.stSh (mx (mm 1 140 2 0 2) (ex 4 4096))) sX)).accs.length = 0 := by
  refine ⟨.inl ⟨by decide, rfl⟩, .inr ⟨by decide, by decide, by decide, rfl⟩, .inr ⟨by decide, by decide, by decide, rfl⟩, .inl ⟨by decide, rfl⟩,
    .inr ⟨by decide, by decide, _, rfl, by decide, rfl⟩, .inr ⟨by decide, by decide, _, rfl, rfl⟩, by decide, by decide, by decide, by decide⟩

/-- A tile of four bytes and one of nine granules; a complete accumulator whose lines are free, and one that its close waits for. -/
theorem test_kept : WellKept (rangeT (some recB)) recB ∧ WellKept { gran := 1, bytes := [(0, 1), (3, 255)], record := some 0x010107 } 0x010107 := by
  unfold WellKept; decide
/-- 15 R258, R259: the sums of an INT8 tile of rows (1, 0) and (0, −1); the last element is off by two in its row and column, and is put right. -/
def tile8 (b : Byte) : Range :=
  let y (n : Int) : Comp := { stale := false, exact := BitVec.ofInt 32 n }
  { gran := 1, bytes := [(0, 1), (3, b)], record := some 0x010107, side := { rows := [(0, y 1), (1, y (-1))], cols := [(0, y 1), (1, y (-1))] } }
theorem test_tile_check :
    (let t := nxt (exec (.tsCk (rr 1 0 0)) (st { tm gT with ranges := [(1, tile8 1)] } (iT [0])))
     ((t.range 0 1).bytes = [(0, 1), (3, 255)]) ∧ (tile8 1).side.anyStale = false) := by decide +kernel
theorem test_close_hypotheses :
    (let s (c : Option (Nat × Nat × Nat)) : State := { sAc (.close 1 3) 1 with accums := [(0x800000, { acc0 1 with close := c })] }
     (s none).tileFree (acc0 1).pages 0 = true ∧ (acc0 1).waiting.isEmpty = true ∧
     (s (some (1, 3, 3))).closeDue 3 (aC (.close 1 3)) = true) := by decide +kernel
/-- An exit of a thread that has not arrived at barrier 3, whose phase it completes, and of one that has. -/
theorem test_exit_barriers :
    (mX.bar 3).roles.testBit gX.role = true ∧ sX.arriving 0 0 0 3 = false ∧ tget? mX.bars 3 = some (mX.bar 3) ∧
    ((nxt (exec (.exit (rr 0 0 0)) sX)).team 0).map (fun m => ((m.bar 3).phase, (m.bar 3).e, (m.bar 3).a)) = some (false, 0, 0) ∧
    ((nxt (exec (.exit (rr 0 0 0)) { sX with teams := [(0, { mX with bars := [(3, { roles := 1, e := 2, a := 1, arrived := [0] })] })] })).team 0).map
      (fun m => ((m.bar 3).pend, (m.bar 3).e)) = some (1, 2) := by decide
/-- A word of shared memory that a poisoned register marks, and one that a clean register clears. -/
theorem test_shared_marks :
    (let s : State := { sX with teams := [(0, { mX with shPoison := [8] })] }
     ((nxt (exec (.stSh (mm 69 1 2 0 0)) sX)).team 0).map (·.shPoison) = some [8] ∧
     ((nxt (exec (.stSh (mm 2 1 2 0 0)) s)).team 0).map (·.shPoison) = some [] ∧
     ((nxt (exec (.stSh (mm 2 1 0 0 0)) s)).team 0).map (·.shPoison) = some [8]) := by decide
theorem test_engine_room : (sCd 1).roomAt 771 = true ∧ (sCd 1).accs.isEmpty = true ∧ ((sD true).core 0).rsv.isEmpty = true ∧
    ({ sI both default with readyReg := 0 } : State).peerUp 9 = false := by decide
theorem test_register_values :
    (nxt (exec .registerWrite (sR 1200 3 .draint))).readReg .draint = 1200 ∧ (nxt (exec .registerWrite (sR 0x1000000 3 .draint))).readReg .draint = 0x1000000 ∧
    (nxt (exec .registerWrite (sR 0x4000000 3 .spsize))).readReg .spsize = 0x4000000 ∧
    (nxt (exec .registerWrite { sR 7 3 (.peer 5 255) with fwRunning := true })).readReg (.peer 5 255) = 7 := by decide
/-- An acknowledgement that goes to core 0 of device 3, and a link that is not up. -/
theorem test_outside_links :
    isPeer (peerSrc 3 0) = true ∧ (sX2 default default).deferred.isEmpty = true ∧
    (let a : Access := { stA (.back 990) with src := peerSrc 3 0, cid := 8, gwct := 7 }
     (sS [(3, a)]).ackDue a = true ∧ (nxt (exec (.acknowledgement 3) (sS [(3, a)]))).outbox.length = 1) ∧
    (nxt (exec .hostAccess { sX2 (.load false 0x40000010 4) default with readyReg := 0x800 })).outbox.length = 0 ∧
    (nxt (exec .remoteAccess { sX2 default (.load 0x40000010 4) with readyReg := 0x400 })).outbox.length = 0 := by decide
def sIv3 : State := { nxt (exec .invalidate (sIv 2)) with dt := 9000 }
theorem test_invalidations_end : NoParks sIv3 ∧ (sIv3.ctx 3).moving = [] ∧ sIv3.invDue 3 = true ∧
    ((nxt (exec (.invalidationDone 3) sIv3)).ctx 3).done = true :=
  ⟨⟨by decide, by decide, by decide, fun a h => (by rw [show sIv3.accs = [] by decide] at h; cases h), by decide, by decide, by decide, by decide⟩,
   by decide, by decide, by decide⟩
/-- A queue that is full, and one that is disabled; a park is kept, another record counts in FQDROP. -/
theorem test_queue_full :
    (let s (n : Word) (k : Nat) : State := { sTr [{ rec0 with b0 := k * 256 + 17 }] with ctxs := [(3, { tenant := 2, fqbase := 0x4000, fqsize := n, fqhead := 5, fqtail := 1 })] }
     (s 4 0).storeDue 300 = true ∧ ((nxt (exec (.traceRecordStore 300) (s 4 0))).ctx 3).fqwait.length = 1 ∧
     ((nxt (exec (.traceRecordStore 300) (s 0 2))).ctx 3).fqdrop = 1) := by decide
def sRg (r : Region) : State := { sA with input := { core := 0, region := r }, teams := [(0, { mA with q := [(2, [clean 1, clean 2])] })] }
theorem test_regions :
    ((sRg .icache).recent.isEmpty && (tget (sRg .icache).checks 0 []).isEmpty) = true ∧ ((sRg .icache).sliceSt 0 0).spused = false ∧
    ((sRg .icache).sliceSt 0 2).spused = true ∧ (nxt (exec .strikeReport (sRg (.lane 0 1)))).readReg (.corrected 1024) = 1 ∧
    ((nxt (exec .strikeReport (sRg (.lane 2 1)))).core 0).stop = 1024 ∧
    ((nxt (exec .strikeReport (sRg (.twoLanes 0 0 1)))).thread 0 0 1).map (·.st) = some .exited ∧
    ((nxt (exec .strikeReport (sRg (.sharedBank [(0, 2)])))).team 0).map (·.shPoison) = some [8] ∧
    ((nxt (exec .strikeReport (sRg (.queueBank 0 2 [1])))).team 0).map (fun m => tget m.q 2 []) = some [clean 1, poisoned] ∧
    ((nxt (exec .strikeReport (sRg (.laneAlu 3 1)))).sliceSt 0 3).residue = [(1, 1000)] := by decide
/-- Counts that fall short of the birth count by more than any step, and that pass it. -/
theorem test_drift (c : Nat) (h : 0 < Config.birthCount c) :
    (0 ≤ Config.birthCount c ∧ 14 * Config.birthCount c < 200 * (Config.birthCount c - 0)) ∧ Config.birthCount c < Config.birthCount c + 1 := by omega
theorem test_firmware_functions :
    (nxt (exec .selfTestComplete { sM 0 with input := { id := 1, flag := true }, readyReg := 1, fwRunning := true })).readyReg = 3 ∧
    (nxt (exec .selfTestComplete { sM 0 with input := { id := 1, flag := true }, readyReg := 1 })).readyReg = 1 ∧
    (let s : State := { sM 0 with readyReg := 0x3000 }
     s.readyReg.getLsbD 12 = true ∧ s.readyReg.getLsbD 13 = true ∧ s.roomAt 770 = true ∧ (tget? (s.ctx 3).peers 1).isSome = true) := by decide

end Sys2Proof.Tests
end

section
/-! PROOFS. The family of 09: bit counts, bit fields and carry-less products (R158, R159), minimum, maximum and sign changes of codes (R162,
R163, R166), and the lane exchanges (R176). What each word changes and leaves is `alu_spec` and `reg_spec`; what stands here is its result. -/

namespace Sys2Proof.Proofs
open Machine Safety Claim

/-! Words whose result is one word of their integer or floating sources. -/

/-- A word of classes U and L whose result is one word of its sources. -/
theorem aluEffect_word {x : Instr} {k : UL} {f : FR} {codes : List (Nat × (Nat → Word))} {w v : List Word → Word}
    (hx : ∀ s, exec x s = .next (s.alu k f codes fun _ l => .word (w l))) (hw : ∀ l, w l = v l) :
    AluEffect x k f codes 1 (one v) := by
  obtain rfl : w = v := funext hw
  exact alu_spec x k f codes 1 _ hx fun _ _ => rfl
theorem aluEffect_int1 {x : Instr} {k : UL} {f : FR} {op : Word → Word} {v : List Word → Word}
    (hx : ∀ s, exec x s = .next (s.int1 k f op)) (hv : ∀ l, op (a1 l) = v l) : AluEffect x k f (srcA f) 1 (one v) :=
  aluEffect_word hx hv
theorem aluEffect_int2 {x : Instr} {k : UL} {f : FR} {op : Word → Word → Word} {v : List Word → Word}
    (hx : ∀ s, exec x s = .next (s.int2 k f op)) (hv : ∀ l, op (a1 l) (a2 l) = v l) : AluEffect x k f (srcAB f) 1 (one v) :=
  aluEffect_word hx hv
theorem aluEffect_int3 {x : Instr} {k : UL} {f : FR} {op : Word → Word → Word → Word} {v : List Word → Word}
    (hx : ∀ s, exec x s = .next (s.int3 k f op)) (hv : ∀ l, op (a1 l) (a2 l) (a3 l) = v l) :
    AluEffect x k f (srcABC f) 1 (one v) :=
  aluEffect_word hx hv
theorem codes1_eq (s : State) (k : UL) (f : FR) (op : Fmt → Nat → Nat) :
    s.codes1 k f op = s.alu k f (fsrcA f) fun _ l => .word (wn (op (fmtOf f) (low (fmtOf f) (a1 l)))) := rfl
theorem codes2_eq (s : State) (k : UL) (f : FR) (op : Fmt → Nat → Nat → Nat) :
    s.codes2 k f op = s.alu k f (fsrcAB f) fun _ l => .word (wn (op (fmtOf f) (low (fmtOf f) (a1 l)) (low (fmtOf f) (a2 l)))) := rfl
theorem aluEffect_codes1 {x : Instr} {k : UL} {f : FR} (op : Fmt → Nat → Nat) (hx : ∀ s, exec x s = .next (s.codes1 k f op)) :
    AluEffect x k f (fsrcA f) 1 (one fun l => wn (op (fmtOf f) (low (fmtOf f) (a1 l)))) :=
  aluEffect_word (fun s => by rw [hx, codes1_eq]) fun _ => rfl
theorem aluEffect_codes2 {x : Instr} {k : UL} {f : FR} (op : Fmt → Nat → Nat → Nat) (hx : ∀ s, exec x s = .next (s.codes2 k f op)) :
    AluEffect x k f (fsrcAB f) 1 (one fun l => wn (op (fmtOf f) (low (fmtOf f) (a1 l)) (low (fmtOf f) (a2 l)))) :=
  aluEffect_word (fun s => by rw [hx, codes2_eq]) fun _ => rfl

/-! Words given bit by bit. -/

/-- The sum of weighted bits, as `bitsWord` forms it, has those bits. -/
theorem lt_testBit_weightedBits (b : Nat → Bool) (n : Nat) :
    let x := ((List.range n).map fun k => (b k).toNat * 2 ^ k).foldl (· + ·) 0
    x < 2 ^ n ∧ ∀ i, x.testBit i = (decide (i < n) && b i) := by
  induction n with
  | zero => simp
  | succ n ih =>
    obtain ⟨hlt, hbit⟩ := ih
    simp only [List.range_succ, List.map_append, List.map_cons, List.map_nil, List.foldl_append, List.foldl_cons, List.foldl_nil]
    generalize List.foldl (· + ·) 0 ((List.range n).map fun k => (b k).toNat * 2 ^ k) = x at hlt hbit ⊢
    rw [Nat.add_comm, Nat.mul_comm]
    refine ⟨?_, fun i => ?_⟩
    · have := Nat.mul_le_mul_left (2 ^ n) (b n).toNat_le
      omega
    · rw [Nat.testBit_two_pow_mul_add _ hlt, hbit, Nat.testBit_bool_toNat]
      rcases Nat.lt_trichotomy i n with h | rfl | h
      · simp [h, Nat.lt_succ_of_lt h]
      · simp
      · simp [show ¬i < n by omega, show ¬i < n + 1 by omega, show i - n ≠ 0 by omega]

theorem getLsbD_bitsWord (b : Nat → Bool) (i : Nat) : (bitsWord b).getLsbD i = (decide (i < 32) && b i) := by
  rw [bitsWord, BitVec.getLsbD_ofNat, (lt_testBit_weightedBits b 32).2 i]
  cases decide (i < 32) <;> rfl
/-- A word is known by its bits. -/
theorem eq_bitsWord {x : Word} {b : Nat → Bool} (h : ∀ i < 32, x.getLsbD i = b i) : x = bitsWord b :=
  BitVec.eq_of_getLsbD_eq fun i hi => by rw [getLsbD_bitsWord, h i hi]; simp [hi]
theorem wn_eq_bitsWord {n : Nat} {b : Nat → Bool} (h : ∀ i < 32, n.testBit i = b i) : wn n = bitsWord b :=
  eq_bitsWord fun i hi => by rw [wn, BitVec.getLsbD_ofNat, h i hi]; simp [hi]

/-! Bit counts and reversal (09 R158). -/

theorem leadZeros_eq (a : Word) : wn (leadZeros a) = if a = 0 then 32 else wn (31 - Nat.log2 a.toNat) := by
  have h0 : a.toNat = 0 ↔ a = 0 := ⟨fun h => BitVec.eq_of_toNat_eq h, fun h => h ▸ rfl⟩
  simp only [leadZeros, bitLen, h0]
  split
  · rfl
  · congr 1; omega

theorem trailZeros_eq (a : Word) : trailZeros a = ((List.range 32).takeWhile fun i => !a.getLsbD i).length := by
  simp only [trailZeros, List.find?_eq_getElem?_findIdx, List.takeWhile_eq_take_findIdx_not, Bool.not_not, List.length_take,
    List.length_range]
  have hle : (List.range 32).findIdx a.getLsbD ≤ 32 := by simpa using List.findIdx_le_length (p := a.getLsbD) (xs := List.range 32)
  rw [Nat.min_eq_left hle]
  generalize (List.range 32).findIdx a.getLsbD = k at hle ⊢
  rcases Nat.lt_or_eq_of_le hle with h | rfl
  · simp [h]
  · simp

theorem testBit_maskOf (l : List Nat) (i : Nat) : (maskOf l).testBit i = decide (i ∈ l) := by
  have key : ∀ m : Nat, (l.foldl (fun m i => m ||| 2 ^ i) m).testBit i = (m.testBit i || decide (i ∈ l)) := by
    induction l with
    | nil => simp
    | cons x r ih =>
      intro m
      rw [List.foldl_cons, ih, Nat.testBit_or, Nat.testBit_two_pow, Bool.or_assoc, ← Bool.decide_or]
      simp only [List.mem_cons, eq_comm]
  simpa [maskOf] using key 0

theorem bitRev_eq (a : Word) : bitRev a = bitsWord fun i => a.getLsbD (31 - i) := by
  refine wn_eq_bitsWord fun i hi => ?_
  rw [testBit_maskOf, Bool.eq_iff_iff, decide_eq_true_iff]
  simp only [List.mem_map, bitsOf, List.mem_filter, List.mem_range]
  constructor
  · rintro ⟨j, ⟨hj, hb⟩, rfl⟩
    rwa [Nat.sub_sub_self (by omega)]
  · intro hb
    exact ⟨31 - i, ⟨by omega, hb⟩, by omega⟩

/-! Bit fields (09 R158). -/

theorem testBit_field (x lo len i : Nat) : (field x lo len).testBit i = (decide (i < len) && x.testBit (lo + i)) := by
  rw [field, Nat.testBit_mod_two_pow, Nat.testBit_div_two_pow, Nat.add_comm]

/-- 00 R13: the word of `sext(x, n)` repeats bit `n - 1` of `x`. -/
theorem getLsbD_w32_sext (x n i : Nat) (hn : 0 < n) (hi : i < 32) :
    (w32 (sext x n)).getLsbD i = if i < n then x.testBit i else x.testBit (n - 1) := by
  have h2 : 2 ^ n = 2 * 2 ^ (n - 1) := by rw [← Nat.pow_succ']; congr; omega
  have hs : sext x n = (BitVec.ofNat n x).toInt := by
    rw [BitVec.toInt_eq_toNat_cond, BitVec.toNat_ofNat, sext]
    have : x % 2 ^ n < 2 ^ (n - 1) ↔ 2 * (x % 2 ^ n) < 2 ^ n := by omega
    simp only [this]
  have hw : w32 (sext x n) = (BitVec.ofNat n x).signExtend 32 := by rw [hs]; rfl
  rw [hw, BitVec.getLsbD_signExtend, BitVec.msb_eq_getLsbD_last]
  simp only [BitVec.getLsbD_ofNat, hi, decide_true, Bool.true_and, show n - 1 < n by omega]
  split <;> simp [*]

theorem bfLen_eq (b : Word) : bfLen b = fieldLen b := rfl
theorem bfPos_eq (b : Word) : bfPos b = fieldPos b := rfl

theorem bfxOf_eq (u : Bool) (a b : Word) : bfxOf u a b = bitsWord fun i =>
    if i < fieldLen b then a.getLsbD (fieldPos b + i)
    else !u && fieldLen b ≠ 0 && a.getLsbD (fieldPos b + fieldLen b - 1) := by
  rw [bfxOf, bfLen_eq, bfPos_eq]
  generalize fieldLen b = n
  generalize fieldPos b = p
  split
  · next h => exact wn_eq_bitsWord (n := 0) fun i _ => by simp [h]
  · next h =>
    cases u with
    | true => exact wn_eq_bitsWord fun i _ => by rw [testBit_field]; by_cases hi : i < n <;> simp [hi, BitVec.testBit_toNat]
    | false =>
      refine eq_bitsWord fun i hi => ?_
      rw [if_neg Bool.false_ne_true, getLsbD_w32_sext _ _ _ (by omega) hi, testBit_field, testBit_field,
        show p + (n - 1) = p + n - 1 by omega]
      by_cases hi : i < n <;> simp [hi, h, BitVec.testBit_toNat, show n - 1 < n by omega]

theorem bfiOf_eq (a b c : Word) : bfiOf a b c = bitsWord fun i =>
    if fieldPos b ≤ i ∧ i < fieldPos b + fieldLen b then c.getLsbD (i - fieldPos b) else a.getLsbD i := by
  rw [bfiOf, bfLen_eq, bfPos_eq]
  generalize fieldLen b = n
  generalize fieldPos b = p
  refine eq_bitsWord fun i hi => ?_
  have hm : ((2 ^ n - 1) * 2 ^ p).testBit i = decide (p ≤ i ∧ i < p + n) := by
    rw [Nat.testBit_mul_two_pow, Nat.testBit_two_pow_sub_one, ← Bool.decide_and, decide_eq_decide]
    omega
  simp only [wn, BitVec.getLsbD_or, BitVec.getLsbD_and, BitVec.getLsbD_not, BitVec.getLsbD_ofNat, Nat.testBit_mul_two_pow, hm, hi]
  by_cases h : p ≤ i ∧ i < p + n
  · simp [h, BitVec.testBit_toNat]
  · simp [h]

/-! Carry-less products (09 R159): both the model's product and the rule's are an exclusive or over a range of the same bits. -/

/-- The exclusive or of the first `n` values of a sequence of bits. -/
def xorTo (f : Nat → Bool) (n : Nat) : Bool :=
  match n with
  | 0 => false
  | n + 1 => xorTo f n != f n

theorem foldl_bne_eq_xorTo (f : Nat → Bool) (n : Nat) : (List.range n).foldl (fun p i => p != f i) false = xorTo f n := by
  induction n with
  | zero => rfl
  | succ n ih => rw [List.range_succ, List.foldl_append, ih]; rfl

theorem xorTo_congr {f g : Nat → Bool} {n : Nat} (h : ∀ i < n, f i = g i) : xorTo f n = xorTo g n := by
  induction n with
  | zero => rfl
  | succ n ih => rw [xorTo, xorTo, ih fun i hi => h i (Nat.lt_succ_of_lt hi), h n (Nat.lt_succ_self n)]

/-- Values that are all false past `n` add nothing. -/
theorem xorTo_add {f : Nat → Bool} {n : Nat} (h : ∀ i, n ≤ i → f i = false) (d : Nat) : xorTo f (n + d) = xorTo f n := by
  induction d with
  | zero => rfl
  | succ d ih => rw [← Nat.add_assoc, xorTo, ih, h (n + d) (Nat.le_add_right n d), Bool.bne_false]

theorem xorTo_succ_front (f : Nat → Bool) (n : Nat) : xorTo f (n + 1) = (f 0 != xorTo (fun i => f (i + 1)) n) := by
  induction n with
  | zero => simp only [xorTo, Bool.false_bne, Bool.bne_false]
  | succ n ih => rw [xorTo, ih, Bool.bne_assoc, ← xorTo]

theorem xorTo_reflect (f : Nat → Bool) (n : Nat) : xorTo (fun i => f (n - i)) (n + 1) = xorTo f (n + 1) := by
  induction n with
  | zero => rfl
  | succ n ih =>
    simp only [xorTo_succ_front (fun i => f (n + 1 - i)), Nat.sub_zero, Nat.add_sub_add_right]
    rw [ih]
    exact Bool.xor_comm (f (n + 1)) (xorTo f (n + 1))

/-- Term `i` of bit `k` of the product of `a` and `b`. -/
def productTerm (a b : Word) (k i : Nat) : Bool := b.getLsbD i && (decide (i ≤ k) && a.getLsbD (k - i))

theorem testBit_clProduct (a b : Word) (k : Nat) : (clProduct a b).testBit k = xorTo (productTerm a b k) 32 := by
  suffices h : ∀ n, ((List.range n).foldl (fun p i => if b.getLsbD i then p ^^^ (a.toNat <<< i) else p) 0).testBit k =
      xorTo (productTerm a b k) n from h 32
  intro n
  induction n with
  | zero => exact Nat.zero_testBit k
  | succ n ih =>
    rw [List.range_succ, List.foldl_append, xorTo, ← ih, List.foldl_cons, List.foldl_nil, productTerm]
    cases b.getLsbD n with
    | true => rw [if_pos rfl, Nat.testBit_xor, Nat.testBit_shiftLeft]; rfl
    | false => exact (Bool.xor_false _).symm

theorem polyBit_eq_xorTo (a b : Word) (k : Nat) : polyBit a b k = xorTo (productTerm a b k) (k + 1) := by
  rw [polyBit, foldl_bne_eq_xorTo, ← xorTo_reflect]
  refine xorTo_congr fun i hi => ?_
  have hik : i ≤ k := Nat.le_of_lt_succ hi
  rw [productTerm, Nat.sub_sub_self hik, decide_eq_true hik, Bool.true_and, Bool.and_comm]

theorem testBit_clProduct_eq_polyBit (a b : Word) (k : Nat) : (clProduct a b).testBit k = polyBit a b k := by
  have hb : ∀ i, 32 ≤ i → productTerm a b k i = false := fun i hi => by
    rw [productTerm, BitVec.getLsbD_of_ge b i hi, Bool.false_and]
  have hk : ∀ i, k + 1 ≤ i → productTerm a b k i = false := fun i hi => by
    rw [productTerm, decide_eq_false (Nat.not_le.2 hi), Bool.false_and, Bool.and_false]
  rw [testBit_clProduct, polyBit_eq_xorTo, ← xorTo_add hb (k + 1), ← xorTo_add hk 32, Nat.add_comm]

theorem clProduct_eq (a b : Word) : wn (clProduct a b) = bitsWord fun i => polyBit a b i :=
  wn_eq_bitsWord fun i _ => testBit_clProduct_eq_polyBit a b i
theorem clProduct_high_eq (a b : Word) : wn (clProduct a b / 2 ^ 32) = bitsWord fun i => polyBit a b (32 + i) :=
  wn_eq_bitsWord fun i _ => by rw [Nat.testBit_div_two_pow, Nat.add_comm, testBit_clProduct_eq_polyBit]

/-- Settles O3: each count, field and product of the model is the word that R158 and R159 give bit by bit. -/
theorem bitsAndFields : Obligations.BitsAndFields := fun _ _ =>
  ⟨aluEffect_int1 (fun _ => rfl) fun _ => rfl,
    aluEffect_int1 (fun _ => rfl) fun _ => leadZeros_eq _,
    aluEffect_int1 (fun _ => rfl) fun _ => congrArg wn (trailZeros_eq _),
    aluEffect_int1 (fun _ => rfl) fun _ => bitRev_eq _,
    aluEffect_int2 (fun _ => rfl) fun _ => bfxOf_eq ..,
    aluEffect_int3 (fun _ => rfl) fun _ => bfiOf_eq ..,
    aluEffect_int2 (fun _ => rfl) fun _ => clProduct_eq ..,
    aluEffect_int2 (fun _ => rfl) fun _ => clProduct_high_eq ..⟩

/-! Minimum and maximum of codes. -/

theorem cmp_swap (x y : Machine.Num) : y.cmp x = -x.cmp y := by
  cases x with
  | nan => cases y with
    | inf t => cases t <;> rfl
    | nan | fin => rfl
  | inf s => cases y with
    | nan | fin => cases s <;> rfl
    | inf t => cases s <;> cases t <;> rfl
  | fin s m e a => cases y with
    | nan => rfl
    | inf t => cases t <;> rfl
    | fin t n f b =>
      simp only [Machine.Num.cmp, Int.min_comm f e]
      omega

/-- 09 R162: the order of values that are no NaN, with −0 below +0. -/
def Below (x y : Machine.Num) : Prop := x.cmp y < 0 ∨ (x.cmp y = 0 ∧ x.sign = true ∧ y.sign = false)
/-- 09 R162: `r` is the code that an operation gives which takes `y` where `less` has the value of `y` before that of `x`. -/
def Picks (g : Fmt) (less : Machine.Num → Machine.Num → Prop) (x y r : Nat) : Prop :=
  ((val g x).isNan = true ∧ (val g y).isNan = true → some r = (g.float?.bind (·.nan)).or (some 0)) ∧
  ((val g x).isNan = true ∧ (val g y).isNan = false → r = y) ∧ ((val g x).isNan = false ∧ (val g y).isNan = true → r = x) ∧
  ((val g x).isNan = false ∧ (val g y).isNan = false → less (val g y) (val g x) → r = y) ∧
  ((val g x).isNan = false ∧ (val g y).isNan = false → ¬ less (val g y) (val g x) → r = x)

/-- A minimum or maximum picks its code once it does so for operands that are no NaN. -/
theorem fminmax_picks {g : Fmt} {larger : Bool} {less : Machine.Num → Machine.Num → Prop} {x y : Nat}
    (h : (val g x).isNan = false → (val g y).isNan = false → (less (val g y) (val g x) → fminmax g larger x y = y) ∧
      (¬ less (val g y) (val g x) → fminmax g larger x y = x)) : Picks g less x y (fminmax g larger x y) := by
  refine ⟨?_, ?_, ?_, fun ⟨hx, hy⟩ => (h hx hy).1, fun ⟨hx, hy⟩ => (h hx hy).2⟩
  · rintro ⟨hx, hy⟩
    simp only [fminmax, hx, hy]
    cases g.float?.bind (·.nan) <;> rfl
  · rintro ⟨hx, hy⟩
    simp [fminmax, hx, hy]
  · rintro ⟨hx, hy⟩
    simp [fminmax, hx, hy]

theorem fmin_picks (g : Fmt) (x y : Nat) : Picks g Below x y (fminmax g false x y) := by
  refine fminmax_picks fun hx hy => ?_
  have hless : (0 < (val g x).cmp (val g y) || ((val g x).cmp (val g y) == 0 && !(val g x).sign && (val g y).sign)) = true ↔
      Below (val g y) (val g x) := by
    simp [Below, cmp_swap (val g x) (val g y), and_comm, and_assoc]
  simp only [fminmax, hx, hy]
  constructor <;> intro h <;> simp [hless, h]

theorem fmax_picks (g : Fmt) (x y : Nat) : Picks g (fun u v => Below v u) x y (fminmax g true x y) := by
  refine fminmax_picks fun hx hy => ?_
  have hless : ((val g x).cmp (val g y) < 0 || ((val g x).cmp (val g y) == 0 && (val g x).sign && !(val g y).sign)) = true ↔
      Below (val g x) (val g y) := by
    simp [Below, and_assoc]
  simp only [fminmax, hx, hy]
  constructor <;> intro h <;> simp [hless, h]

/-- Settles O6: minimum and maximum pick the code of the smaller and of the larger value, and the other words change codes as
R163 and R166 say. -/
theorem floatCodes : Obligations.FloatCodes := fun _ f =>
  ⟨⟨fminmax (fmtOf f) false, fmin_picks _, aluEffect_codes2 (fun g => fminmax g false) fun _ => rfl⟩,
    ⟨fminmax (fmtOf f) true, fmax_picks _, aluEffect_codes2 (fun g => fminmax g true) fun _ => rfl⟩,
    aluEffect_codes1 (fun g a => a % signBit g) fun _ => rfl,
    aluEffect_codes1 (fun g a => a ^^^ signBit g) fun _ => rfl,
    aluEffect_codes2 (fun g a b => a % signBit g + b / signBit g * signBit g) fun _ => rfl,
    aluEffect_codes1 classMask fun _ => rfl⟩

/-! The lane exchanges. -/

/-- 09 R176: the register that thread `t` takes under an exchange that names lane `lane t n` for count `n`. -/
def exchanged (f : FR) (lane : Nat → Nat → Nat) (s : State) (i : Issue) (_ : Group) (ps : List Nat) (t : Nat) : List PWord :=
  let b := s.src i kInt t f.b.toNat
  let j := lane t (b.val.toNat % 32)
  [if b.poison then poisoned else if j ∈ ps then s.src i kInt j f.a.toNat else s.src i kInt t (thirdOf f.ext)]

/-- 09 R176: the lane that thread `t` names with count `n`, in segments of `w` lanes. -/
def laneOf (x : Exch) (w t n : Nat) : Nat :=
  match x with
  | .xfrom => t - t % w + n % w
  | .xlow => t - t % w + (t % w + w - n % w) % w
  | .xhigh => t - t % w + (t % w + n) % w
  | .xpair => t ^^^ (n % w)

theorem lane_eq (x : Exch) (w : Nat) : x.lane w = laneOf x w := by
  funext t n
  have hr : t - (t - t % w) = t % w := Nat.sub_sub_self (Nat.mod_le t w)
  cases x <;> simp only [Exch.lane, laneOf, segBase, hr]

theorem exchange_eq {s : State} {i : Issue} {m : Team} {g : Group} (h : Issuing s i m g) (f : FR) (hp : CleanPred i g f.ext) (x : Exch) :
    s.exchange f x = s.finish i f.w f.d.toNat ((takers i g f.ext).map fun t =>
      (t, exchanged f (x.lane (segWidth (immOf f.ext))) s i g (takers i g f.ext) t)) := by
  unfold State.exchange
  rw [parts_eq h f.ext hp]
  simp only [h.cur, exchanged]

/-- Every exchange reads the lanes that R176 names. -/
theorem exchange_effect {x : Instr} {f : FR} (e : Exch) (hx : ∀ s, exec x s = .next (s.exchange f e)) :
    RegEffect x f 1 (exchanged f (laneOf e (32 / 2 ^ (immOf f.ext % 8)))) := by
  rw [← lane_eq]
  exact reg_spec x f 1 _ (fun s i m g hi hp => by rw [hx, exchange_eq hi f hp]; rfl) fun _ _ _ _ _ => rfl

/-- Settles O10: each exchange reads the lane that R176 names within the thread's segment. -/
theorem laneExchanges : Obligations.LaneExchanges := fun _ =>
  ⟨exchange_effect .xfrom fun _ => rfl, exchange_effect .xlow fun _ => rfl, exchange_effect .xhigh fun _ => rfl,
    exchange_effect .xpair fun _ => rfl⟩

end Sys2Proof.Proofs
end
